-- ==== Sys2Proof/Word.lean ====
section
/-! DEFINITION. The word types of the block (10_state.md R104, 20_memory.md R205): host memory is a sequence of
bytes, and a register of the register block and a host address are 32 bits. -/

namespace Sys2Proof

/-- One byte of host memory (20_memory.md R205). -/
abbrev Byte := BitVec 8

/-- One 32-bit register or host address (10_state.md R104, 00_scope.md R6 `ADDR_W`). -/
abbrev Word := BitVec 32

end Sys2Proof
end

