-- ==== Sys2Proof/Config.lean ====
section
/-! DEFINITION. The fixed constants of 00_scope.md R6, the profile table of R7, the platform and naming parameters
of 93_implementation_defined.md section 3, and the free values: opaque constants for what the spec calls `any value`
(93_implementation_defined.md section 1). -/

namespace Sys2Proof.Config

/-- `WINDOW`, the largest match distance (R6). -/
def window : Nat := 524288

/-- `MIN_MATCH` (R6). -/
def minMatch : Nat := 3

/-- `MAX_MATCH` (R6). -/
def maxMatch : Nat := 17010

/-- `MIN_DIST` (R6, decision D10). -/
def minDist : Nat := 3

/-- `BLOCK_SYMS`, symbols in one block (R6). -/
def blockSyms : Nat := 8192

/-- `STORED_EXTRA_MAX` (R6). -/
def storedExtraMax : Nat := 255

/-- `LAZY_THRESHOLD` in bytes (R6). -/
def lazyThreshold : Nat := 32

/-- `NEAR3_MAX_DIST` (R6). -/
def near3MaxDist : Nat := 4096

/-- `NEAR4_MAX_DIST` (R6). -/
def near4MaxDist : Nat := 32768

/-- `LIT_N`, the size of the literal/length alphabet (R6). -/
def litN : Nat := 320

/-- `LIT_MAXLEN` (R6). -/
def litMaxLen : Nat := 14

/-- `DIST_N`, the size of the distance alphabet (R6). -/
def distN : Nat := 64

/-- `DIST_MAXLEN` (R6). -/
def distMaxLen : Nat := 14

/-- `CL_N`, the size of the code-length alphabet (R6). -/
def clN : Nat := 20

/-- `CL_MAXLEN` (R6). -/
def clMaxLen : Nat := 7

/-- `HDR_BYTES` (R6). -/
def hdrBytes : Nat := 4

/-- `MAX_INPUT` = 2^31 - 1 (R6). -/
def maxInput : Nat := 2147483647

/-- The value of the hardwired `ID` register (10_state.md R105). -/
def idValue : Word := 0x4A534331

/-- One row of `PROFILE_TABLE` (R7). The three fields that R7 derives are the functions below. -/
structure Profile where
  hashBits : Nat
  chainBits : Nat
  maxChainLength : Nat
  hashShift : Nat
deriving DecidableEq, Repr

/-- `hashMask = 2^hashBits - 1` (R7). -/
def Profile.hashMask (p : Profile) : Nat := 2 ^ p.hashBits - 1

/-- `chainCapacity = 2^chainBits` (R7). -/
def Profile.chainCapacity (p : Profile) : Nat := 2 ^ p.chainBits

/-- `chainMask = chainCapacity - 1` (R7). -/
def Profile.chainMask (p : Profile) : Nat := p.chainCapacity - 1

/-- `PROFILE_TABLE`, the spec's default (R7, decision D14, parameter P-PROF; DESIGN CHOICE, log entry 9), by the
two bits of `LEVEL`. -/
def profileTable (level : BitVec 2) : Profile :=
  if level = 0 then { hashBits := 12, chainBits := 12, maxChainLength := 4, hashShift := 4 }
  else if level = 1 then { hashBits := 14, chainBits := 15, maxChainLength := 16, hashShift := 5 }
  else if level = 2 then { hashBits := 16, chainBits := 17, maxChainLength := 64, hashShift := 6 }
  else { hashBits := 17, chainBits := 19, maxChainLength := 512, hashShift := 6 }

/-- The bounds R7 puts on any profile table: `hashBits ≤ MAX_HASH_BITS`, `chainBits ≤ MAX_CHAIN_BITS`,
`maxChainLength ≥ 1` and `3·hashShift ≥ hashBits`. -/
def Profile.inBounds (p : Profile) : Bool :=
  decide (p.hashBits ≤ 17 ∧ p.chainBits ≤ 19 ∧ 1 ≤ p.maxChainLength ∧ p.hashBits ≤ 3 * p.hashShift)

/-- Parameter P-MERGE (60_exceptions.md R900): whether `CORRUPT_INPUT` is reported with the code of
`TRUNCATED_INPUT`. The default keeps them apart (DESIGN CHOICE, log entry 9). -/
def mergeCorrupt : Bool := false

/-- `REG_BASE`, the OPEN platform parameter P-REG (20_memory.md R209): a constant with no body, so that nothing
can be proved of its value. -/
opaque regBase : Nat

/-- FREE VALUE: the byte an address reads as where the spec leaves it open (never written, or `any value` by U1, U2
or U6 of 93_implementation_defined.md). The first argument tells one occasion from another. -/
opaque freeByte : Nat → Nat → Byte

/-- FREE VALUE: a result register that U6 leaves open; the second argument tells the registers apart. -/
opaque freeWord : Nat → Nat → Word

/-- FREE VALUE: a result bit that U6 leaves open. -/
opaque freeBit : Nat → Nat → Bool

end Sys2Proof.Config
end

