-- ==== Sys2Proof/Syntax.lean ====
section
/-! DEFINITION. The instruction set: one constructor for each of the 162 rows of spec/opcode_table.json. The rows are
the host commands (`CMDW`, 30_encoding.md R301) and the tokens of the encoded buffer that DECOMPRESS executes
(`HDR`, `BTYPE`, `CLSYM`, `LLSYM`, `DSYM`, R302 to R314). A token that extra bits follow has them as its operand `x`,
at the width 30_encoding.md R310 and 42_symbol_mapping.md R450 and R455 give it. -/

namespace Sys2Proof

/-- The four compression levels of `CMD.LEVEL` (30_encoding.md R301). -/
inductive Level where
  | fastest
  | fast
  | normal
  | maximum
deriving DecidableEq, Repr

/-- One constructor per row of spec/opcode_table.json, in the table's order. -/
inductive Instr where
  /-- NOP: `NOP`, OP 0 (49_host_commands.md R810). -/
  | nop
  /-- COMPRESS: `COMPRESS`, OP 1, with its profile level (R802). -/
  | compress (level : Level)
  /-- DECOMPRESS: `DECOMPRESS`, OP 2 (R804). -/
  | decompress
  /-- GET_LENGTH: `GET_LENGTH`, OP 3 (R806). -/
  | getLength
  /-- MEASURE: `MEASURE`, OP 4, with its profile level (R808). -/
  | measure (level : Level)
  /-- RESERVED_OP5: the reserved OP 5 (R812). -/
  | reservedOp5
  /-- RESERVED_OP6: the reserved OP 6 (R812). -/
  | reservedOp6
  /-- RESERVED_OP7: the reserved OP 7 (R812). -/
  | reservedOp7
  /-- HDR_STORED_EMPTY: the header `h = 0` (47_block_decoder.md R701). -/
  | hdrStoredEmpty
  /-- HDR_STORED: a header `h < 0` (R701). -/
  | hdrStored (h : Word)
  /-- HDR_HUFFMAN: a header `h > 0` (R701, R702). -/
  | hdrHuffman (h : Word)
  /-- STORED_BLOCK: `BTYPE` 0 (R703). -/
  | storedBlock
  /-- COMPRESSED_BLOCK: `BTYPE` 1 (R704). -/
  | compressedBlock
  /-- CL_LEN_0: the code length 0 (R706). -/
  | clLen0
  /-- CL_LEN_1: the code length 1 (R706). -/
  | clLen1
  /-- CL_LEN_2: the code length 2 (R706). -/
  | clLen2
  /-- CL_LEN_3: the code length 3 (R706). -/
  | clLen3
  /-- CL_LEN_4: the code length 4 (R706). -/
  | clLen4
  /-- CL_LEN_5: the code length 5 (R706). -/
  | clLen5
  /-- CL_LEN_6: the code length 6 (R706). -/
  | clLen6
  /-- CL_LEN_7: the code length 7 (R706). -/
  | clLen7
  /-- CL_LEN_8: the code length 8 (R706). -/
  | clLen8
  /-- CL_LEN_9: the code length 9 (R706). -/
  | clLen9
  /-- CL_LEN_10: the code length 10 (R706). -/
  | clLen10
  /-- CL_LEN_11: the code length 11 (R706). -/
  | clLen11
  /-- CL_LEN_12: the code length 12 (R706). -/
  | clLen12
  /-- CL_LEN_13: the code length 13 (R706). -/
  | clLen13
  /-- CL_LEN_14: the code length 14 (R706). -/
  | clLen14
  /-- CL_REP2: the previous length twice (R706). -/
  | clRep2
  /-- CL_REP3_4: a run of the previous length (R706). -/
  | clRep3_4 (x : BitVec 1)
  /-- CL_REP5_8: a run of the previous length (R706). -/
  | clRep5_8 (x : BitVec 2)
  /-- CL_REP9_16: a run of the previous length (R706). -/
  | clRep9_16 (x : BitVec 3)
  /-- CL_REP17_144: a run of the previous length (R706). -/
  | clRep17_144 (x : BitVec 7)
  /-- LIT: a literal byte (48_symbol_decoder_and_copy.md R754). -/
  | lit (b : Byte)
  /-- LEN_0: length 3 (R755). -/
  | len0
  /-- LEN_1: length 4 (R755). -/
  | len1
  /-- LEN_2: length 5 (R755). -/
  | len2
  /-- LEN_3: length 6 (R755). -/
  | len3
  /-- LEN_4: length 7 (R755). -/
  | len4
  /-- LEN_5: length 8 (R755). -/
  | len5
  /-- LEN_6: length 9 (R755). -/
  | len6
  /-- LEN_7: length 10 (R755). -/
  | len7
  /-- LEN_8: length 11 (R755). -/
  | len8
  /-- LEN_9: length 12 (R755). -/
  | len9
  /-- LEN_10: length 13 (R755). -/
  | len10
  /-- LEN_11: length 14 (R755). -/
  | len11
  /-- LEN_12: length 15 (R755). -/
  | len12
  /-- LEN_13: length 16 (R755). -/
  | len13
  /-- LEN_14: length 17 (R755). -/
  | len14
  /-- LEN_15: length 18 (R755). -/
  | len15
  /-- LEN_16: lengths 19 to 20 (R755). -/
  | len16 (x : BitVec 1)
  /-- LEN_17: lengths 21 to 22 (R755). -/
  | len17 (x : BitVec 1)
  /-- LEN_18: lengths 23 to 24 (R755). -/
  | len18 (x : BitVec 1)
  /-- LEN_19: lengths 25 to 26 (R755). -/
  | len19 (x : BitVec 1)
  /-- LEN_20: lengths 27 to 28 (R755). -/
  | len20 (x : BitVec 1)
  /-- LEN_21: lengths 29 to 30 (R755). -/
  | len21 (x : BitVec 1)
  /-- LEN_22: lengths 31 to 32 (R755). -/
  | len22 (x : BitVec 1)
  /-- LEN_23: lengths 33 to 34 (R755). -/
  | len23 (x : BitVec 1)
  /-- LEN_24: lengths 35 to 36 (R755). -/
  | len24 (x : BitVec 1)
  /-- LEN_25: lengths 37 to 38 (R755). -/
  | len25 (x : BitVec 1)
  /-- LEN_26: lengths 39 to 40 (R755). -/
  | len26 (x : BitVec 1)
  /-- LEN_27: lengths 41 to 42 (R755). -/
  | len27 (x : BitVec 1)
  /-- LEN_28: lengths 43 to 44 (R755). -/
  | len28 (x : BitVec 1)
  /-- LEN_29: lengths 45 to 46 (R755). -/
  | len29 (x : BitVec 1)
  /-- LEN_30: lengths 47 to 48 (R755). -/
  | len30 (x : BitVec 1)
  /-- LEN_31: lengths 49 to 50 (R755). -/
  | len31 (x : BitVec 1)
  /-- LEN_32: lengths 51 to 54 (R755). -/
  | len32 (x : BitVec 2)
  /-- LEN_33: lengths 55 to 58 (R755). -/
  | len33 (x : BitVec 2)
  /-- LEN_34: lengths 59 to 62 (R755). -/
  | len34 (x : BitVec 2)
  /-- LEN_35: lengths 63 to 66 (R755). -/
  | len35 (x : BitVec 2)
  /-- LEN_36: lengths 67 to 70 (R755). -/
  | len36 (x : BitVec 2)
  /-- LEN_37: lengths 71 to 74 (R755). -/
  | len37 (x : BitVec 2)
  /-- LEN_38: lengths 75 to 78 (R755). -/
  | len38 (x : BitVec 2)
  /-- LEN_39: lengths 79 to 82 (R755). -/
  | len39 (x : BitVec 2)
  /-- LEN_40: lengths 83 to 86 (R755). -/
  | len40 (x : BitVec 2)
  /-- LEN_41: lengths 87 to 90 (R755). -/
  | len41 (x : BitVec 2)
  /-- LEN_42: lengths 91 to 94 (R755). -/
  | len42 (x : BitVec 2)
  /-- LEN_43: lengths 95 to 98 (R755). -/
  | len43 (x : BitVec 2)
  /-- LEN_44: lengths 99 to 102 (R755). -/
  | len44 (x : BitVec 2)
  /-- LEN_45: lengths 103 to 106 (R755). -/
  | len45 (x : BitVec 2)
  /-- LEN_46: lengths 107 to 110 (R755). -/
  | len46 (x : BitVec 2)
  /-- LEN_47: lengths 111 to 114 (R755). -/
  | len47 (x : BitVec 2)
  /-- LEN_48: lengths 115 to 122 (R755). -/
  | len48 (x : BitVec 3)
  /-- LEN_49: lengths 123 to 130 (R755). -/
  | len49 (x : BitVec 3)
  /-- LEN_50: lengths 131 to 138 (R755). -/
  | len50 (x : BitVec 3)
  /-- LEN_51: lengths 139 to 146 (R755). -/
  | len51 (x : BitVec 3)
  /-- LEN_52: lengths 147 to 154 (R755). -/
  | len52 (x : BitVec 3)
  /-- LEN_53: lengths 155 to 162 (R755). -/
  | len53 (x : BitVec 3)
  /-- LEN_54: lengths 163 to 170 (R755). -/
  | len54 (x : BitVec 3)
  /-- LEN_55: lengths 171 to 178 (R755). -/
  | len55 (x : BitVec 3)
  /-- LEN_56: lengths 179 to 194 (R755). -/
  | len56 (x : BitVec 4)
  /-- LEN_57: lengths 195 to 210 (R755). -/
  | len57 (x : BitVec 4)
  /-- LEN_58: lengths 211 to 226 (R755). -/
  | len58 (x : BitVec 4)
  /-- LEN_59: lengths 227 to 242 (R755). -/
  | len59 (x : BitVec 4)
  /-- LEN_60: lengths 243 to 306 (R755). -/
  | len60 (x : BitVec 6)
  /-- LEN_61: lengths 307 to 370 (R755). -/
  | len61 (x : BitVec 6)
  /-- LEN_62: lengths 371 to 626 (R755). -/
  | len62 (x : BitVec 8)
  /-- LEN_63: lengths 627 to 17010 (R755). -/
  | len63 (x : BitVec 14)
  /-- REP0: cache entry 0 (R756). -/
  | rep0
  /-- REP1: cache entry 1 (R756). -/
  | rep1
  /-- REP2: cache entry 2 (R756). -/
  | rep2
  /-- DIST_3: distance 3 (R757). -/
  | dist3
  /-- DIST_4: distance 4 (R757). -/
  | dist4
  /-- DIST_5: distance 5 (R757). -/
  | dist5
  /-- DIST_6: distance 6 (R757). -/
  | dist6
  /-- DIST_7: distance 7 (R757). -/
  | dist7
  /-- DIST_8: distance 8 (R757). -/
  | dist8
  /-- DIST_9: distances 9 to 10 (R757). -/
  | dist9 (x : BitVec 1)
  /-- DIST_10: distances 11 to 12 (R757). -/
  | dist10 (x : BitVec 1)
  /-- DIST_11: distances 13 to 14 (R757). -/
  | dist11 (x : BitVec 1)
  /-- DIST_12: distances 15 to 16 (R757). -/
  | dist12 (x : BitVec 1)
  /-- DIST_13: distances 17 to 20 (R757). -/
  | dist13 (x : BitVec 2)
  /-- DIST_14: distances 21 to 24 (R757). -/
  | dist14 (x : BitVec 2)
  /-- DIST_15: distances 25 to 28 (R757). -/
  | dist15 (x : BitVec 2)
  /-- DIST_16: distances 29 to 32 (R757). -/
  | dist16 (x : BitVec 2)
  /-- DIST_17: distances 33 to 40 (R757). -/
  | dist17 (x : BitVec 3)
  /-- DIST_18: distances 41 to 48 (R757). -/
  | dist18 (x : BitVec 3)
  /-- DIST_19: distances 49 to 56 (R757). -/
  | dist19 (x : BitVec 3)
  /-- DIST_20: distances 57 to 64 (R757). -/
  | dist20 (x : BitVec 3)
  /-- DIST_21: distances 65 to 80 (R757). -/
  | dist21 (x : BitVec 4)
  /-- DIST_22: distances 81 to 96 (R757). -/
  | dist22 (x : BitVec 4)
  /-- DIST_23: distances 97 to 112 (R757). -/
  | dist23 (x : BitVec 4)
  /-- DIST_24: distances 113 to 128 (R757). -/
  | dist24 (x : BitVec 4)
  /-- DIST_25: distances 129 to 160 (R757). -/
  | dist25 (x : BitVec 5)
  /-- DIST_26: distances 161 to 192 (R757). -/
  | dist26 (x : BitVec 5)
  /-- DIST_27: distances 193 to 224 (R757). -/
  | dist27 (x : BitVec 5)
  /-- DIST_28: distances 225 to 256 (R757). -/
  | dist28 (x : BitVec 5)
  /-- DIST_29: distances 257 to 320 (R757). -/
  | dist29 (x : BitVec 6)
  /-- DIST_30: distances 321 to 384 (R757). -/
  | dist30 (x : BitVec 6)
  /-- DIST_31: distances 385 to 448 (R757). -/
  | dist31 (x : BitVec 6)
  /-- DIST_32: distances 449 to 512 (R757). -/
  | dist32 (x : BitVec 6)
  /-- DIST_33: distances 513 to 640 (R757). -/
  | dist33 (x : BitVec 7)
  /-- DIST_34: distances 641 to 768 (R757). -/
  | dist34 (x : BitVec 7)
  /-- DIST_35: distances 769 to 896 (R757). -/
  | dist35 (x : BitVec 7)
  /-- DIST_36: distances 897 to 1024 (R757). -/
  | dist36 (x : BitVec 7)
  /-- DIST_37: distances 1025 to 1280 (R757). -/
  | dist37 (x : BitVec 8)
  /-- DIST_38: distances 1281 to 1536 (R757). -/
  | dist38 (x : BitVec 8)
  /-- DIST_39: distances 1537 to 1792 (R757). -/
  | dist39 (x : BitVec 8)
  /-- DIST_40: distances 1793 to 2048 (R757). -/
  | dist40 (x : BitVec 8)
  /-- DIST_41: distances 2049 to 2560 (R757). -/
  | dist41 (x : BitVec 9)
  /-- DIST_42: distances 2561 to 3072 (R757). -/
  | dist42 (x : BitVec 9)
  /-- DIST_43: distances 3073 to 3584 (R757). -/
  | dist43 (x : BitVec 9)
  /-- DIST_44: distances 3585 to 4096 (R757). -/
  | dist44 (x : BitVec 9)
  /-- DIST_45: distances 4097 to 5120 (R757). -/
  | dist45 (x : BitVec 10)
  /-- DIST_46: distances 5121 to 6144 (R757). -/
  | dist46 (x : BitVec 10)
  /-- DIST_47: distances 6145 to 7168 (R757). -/
  | dist47 (x : BitVec 10)
  /-- DIST_48: distances 7169 to 8192 (R757). -/
  | dist48 (x : BitVec 10)
  /-- DIST_49: distances 8193 to 10240 (R757). -/
  | dist49 (x : BitVec 11)
  /-- DIST_50: distances 10241 to 12288 (R757). -/
  | dist50 (x : BitVec 11)
  /-- DIST_51: distances 12289 to 14336 (R757). -/
  | dist51 (x : BitVec 11)
  /-- DIST_52: distances 14337 to 16384 (R757). -/
  | dist52 (x : BitVec 11)
  /-- DIST_53: distances 16385 to 20480 (R757). -/
  | dist53 (x : BitVec 12)
  /-- DIST_54: distances 20481 to 24576 (R757). -/
  | dist54 (x : BitVec 12)
  /-- DIST_55: distances 24577 to 28672 (R757). -/
  | dist55 (x : BitVec 12)
  /-- DIST_56: distances 28673 to 32768 (R757). -/
  | dist56 (x : BitVec 12)
  /-- DIST_57: distances 32769 to 65536 (R757). -/
  | dist57 (x : BitVec 15)
  /-- DIST_58: distances 65537 to 98304 (R757). -/
  | dist58 (x : BitVec 15)
  /-- DIST_59: distances 98305 to 131072 (R757). -/
  | dist59 (x : BitVec 15)
  /-- DIST_60: distances 131073 to 196608 (R757). -/
  | dist60 (x : BitVec 16)
  /-- DIST_61: distances 196609 to 262144 (R757). -/
  | dist61 (x : BitVec 16)
  /-- DIST_62: distances 262145 to 393216 (R757). -/
  | dist62 (x : BitVec 17)
  /-- DIST_63: distances 393217 to 524288 (R757). -/
  | dist63 (x : BitVec 17)
deriving DecidableEq, Repr

end Sys2Proof
end

