-- ==== Sys2Proof/WellFormed.lean ====
section
/-! DEFINITION. Which terms of `Instr` are instructions of the spec: a header's form must agree with the sign of its
value (30_encoding.md R302). Every other operand admits all the values of its width (R310 to R312). -/

namespace Sys2Proof

/-- The check, one arm per constructor (R302: `h < 0` is the stored form, `h > 0` the Huffman form). -/
def Instr.wellFormed : Instr → Bool
  | .nop => true
  | .compress _ => true
  | .decompress => true
  | .getLength => true
  | .measure _ => true
  | .reservedOp5 => true
  | .reservedOp6 => true
  | .reservedOp7 => true
  | .hdrStoredEmpty => true
  | .hdrStored h => h.msb
  | .hdrHuffman h => !h.msb && h != 0
  | .storedBlock => true
  | .compressedBlock => true
  | .clLen0 => true
  | .clLen1 => true
  | .clLen2 => true
  | .clLen3 => true
  | .clLen4 => true
  | .clLen5 => true
  | .clLen6 => true
  | .clLen7 => true
  | .clLen8 => true
  | .clLen9 => true
  | .clLen10 => true
  | .clLen11 => true
  | .clLen12 => true
  | .clLen13 => true
  | .clLen14 => true
  | .clRep2 => true
  | .clRep3_4 _ => true
  | .clRep5_8 _ => true
  | .clRep9_16 _ => true
  | .clRep17_144 _ => true
  | .lit _ => true
  | .len0 => true
  | .len1 => true
  | .len2 => true
  | .len3 => true
  | .len4 => true
  | .len5 => true
  | .len6 => true
  | .len7 => true
  | .len8 => true
  | .len9 => true
  | .len10 => true
  | .len11 => true
  | .len12 => true
  | .len13 => true
  | .len14 => true
  | .len15 => true
  | .len16 _ => true
  | .len17 _ => true
  | .len18 _ => true
  | .len19 _ => true
  | .len20 _ => true
  | .len21 _ => true
  | .len22 _ => true
  | .len23 _ => true
  | .len24 _ => true
  | .len25 _ => true
  | .len26 _ => true
  | .len27 _ => true
  | .len28 _ => true
  | .len29 _ => true
  | .len30 _ => true
  | .len31 _ => true
  | .len32 _ => true
  | .len33 _ => true
  | .len34 _ => true
  | .len35 _ => true
  | .len36 _ => true
  | .len37 _ => true
  | .len38 _ => true
  | .len39 _ => true
  | .len40 _ => true
  | .len41 _ => true
  | .len42 _ => true
  | .len43 _ => true
  | .len44 _ => true
  | .len45 _ => true
  | .len46 _ => true
  | .len47 _ => true
  | .len48 _ => true
  | .len49 _ => true
  | .len50 _ => true
  | .len51 _ => true
  | .len52 _ => true
  | .len53 _ => true
  | .len54 _ => true
  | .len55 _ => true
  | .len56 _ => true
  | .len57 _ => true
  | .len58 _ => true
  | .len59 _ => true
  | .len60 _ => true
  | .len61 _ => true
  | .len62 _ => true
  | .len63 _ => true
  | .rep0 => true
  | .rep1 => true
  | .rep2 => true
  | .dist3 => true
  | .dist4 => true
  | .dist5 => true
  | .dist6 => true
  | .dist7 => true
  | .dist8 => true
  | .dist9 _ => true
  | .dist10 _ => true
  | .dist11 _ => true
  | .dist12 _ => true
  | .dist13 _ => true
  | .dist14 _ => true
  | .dist15 _ => true
  | .dist16 _ => true
  | .dist17 _ => true
  | .dist18 _ => true
  | .dist19 _ => true
  | .dist20 _ => true
  | .dist21 _ => true
  | .dist22 _ => true
  | .dist23 _ => true
  | .dist24 _ => true
  | .dist25 _ => true
  | .dist26 _ => true
  | .dist27 _ => true
  | .dist28 _ => true
  | .dist29 _ => true
  | .dist30 _ => true
  | .dist31 _ => true
  | .dist32 _ => true
  | .dist33 _ => true
  | .dist34 _ => true
  | .dist35 _ => true
  | .dist36 _ => true
  | .dist37 _ => true
  | .dist38 _ => true
  | .dist39 _ => true
  | .dist40 _ => true
  | .dist41 _ => true
  | .dist42 _ => true
  | .dist43 _ => true
  | .dist44 _ => true
  | .dist45 _ => true
  | .dist46 _ => true
  | .dist47 _ => true
  | .dist48 _ => true
  | .dist49 _ => true
  | .dist50 _ => true
  | .dist51 _ => true
  | .dist52 _ => true
  | .dist53 _ => true
  | .dist54 _ => true
  | .dist55 _ => true
  | .dist56 _ => true
  | .dist57 _ => true
  | .dist58 _ => true
  | .dist59 _ => true
  | .dist60 _ => true
  | .dist61 _ => true
  | .dist62 _ => true
  | .dist63 _ => true

end Sys2Proof
end

