-- ==== Sys2Proof/Decode.lean ====
section
/-! DEFINITION. Decoding and encoding of command words and stream tokens (30_encoding.md R300 to R316). A token is a
decoded symbol value of one of six formats, with the extra bits that follow its code (R309 to R312). Which format is
read is decided by the decoder's state (R314), so the format is an argument here. -/

namespace Sys2Proof

/-- The formats of 30_encoding.md R300; `CHDR` and the body of `STORED` are fields that their block token reads. -/
inductive Format where
  | cmdw
  | hdr
  | btype
  | clsym
  | llsym
  | dsym
deriving DecidableEq, Repr

/-- Why a symbol value is no token: R310 and R311 give code-length symbols 0 to 19 and literal/length symbols 0 to 319
only, and an extra-bit field holds only the bits its symbol has. -/
inductive Reject where
  | reservedCodeLengthSymbol (t : Nat)
  | reservedLiteralSymbol (s : Nat)
  | reservedDistanceSymbol (c : Nat)
  | extraBitsOutOfRange (x : Nat)
deriving DecidableEq, Repr

/-- The length bands `(LEN_BASE[i], LEN_EXTRA[i])` of 42_symbol_mapping.md R450, entries 0 to 31. -/
def lenTablePart0 : List (Nat × Nat) :=
  [(3, 0), (4, 0), (5, 0), (6, 0), (7, 0), (8, 0), (9, 0), (10, 0),
   (11, 0), (12, 0), (13, 0), (14, 0), (15, 0), (16, 0), (17, 0), (18, 0),
   (19, 1), (21, 1), (23, 1), (25, 1), (27, 1), (29, 1), (31, 1), (33, 1),
   (35, 1), (37, 1), (39, 1), (41, 1), (43, 1), (45, 1), (47, 1), (49, 1)]

/-- The length bands `(LEN_BASE[i], LEN_EXTRA[i])` of 42_symbol_mapping.md R450, entries 32 to 63. -/
def lenTablePart1 : List (Nat × Nat) :=
  [(51, 2), (55, 2), (59, 2), (63, 2), (67, 2), (71, 2), (75, 2), (79, 2),
   (83, 2), (87, 2), (91, 2), (95, 2), (99, 2), (103, 2), (107, 2), (111, 2),
   (115, 3), (123, 3), (131, 3), (139, 3), (147, 3), (155, 3), (163, 3), (171, 3),
   (179, 4), (195, 4), (211, 4), (227, 4), (243, 6), (307, 6), (371, 8), (627, 14)]

/-- The length bands `(LEN_BASE[i], LEN_EXTRA[i])` of 42_symbol_mapping.md R450. -/
def lenTable : List (Nat × Nat) :=
  lenTablePart0 ++ lenTablePart1

/-- `DIST_BAND_TABLE` of R455 by distance code, `(DIST_BASE[c], DIST_EXTRA[c])`, with its default rows (parameter P-DIST, log entry 9); codes 0 to 2 are the cache codes and have no band, entries 0 to 31. -/
def distTablePart0 : List (Nat × Nat) :=
  [(0, 0), (0, 0), (0, 0), (3, 0), (4, 0), (5, 0),
   (6, 0), (7, 0), (8, 0), (9, 1), (11, 1), (13, 1),
   (15, 1), (17, 2), (21, 2), (25, 2), (29, 2), (33, 3),
   (41, 3), (49, 3), (57, 3), (65, 4), (81, 4), (97, 4),
   (113, 4), (129, 5), (161, 5), (193, 5), (225, 5), (257, 6),
   (321, 6), (385, 6)]

/-- `DIST_BAND_TABLE` of R455 by distance code, `(DIST_BASE[c], DIST_EXTRA[c])`, with its default rows (parameter P-DIST, log entry 9); codes 0 to 2 are the cache codes and have no band, entries 32 to 63. -/
def distTablePart1 : List (Nat × Nat) :=
  [(449, 6), (513, 7), (641, 7), (769, 7), (897, 7), (1025, 8),
   (1281, 8), (1537, 8), (1793, 8), (2049, 9), (2561, 9), (3073, 9),
   (3585, 9), (4097, 10), (5121, 10), (6145, 10), (7169, 10), (8193, 11),
   (10241, 11), (12289, 11), (14337, 11), (16385, 12), (20481, 12), (24577, 12),
   (28673, 12), (32769, 15), (65537, 15), (98305, 15), (131073, 16), (196609, 16),
   (262145, 17), (393217, 17)]

/-- `DIST_BAND_TABLE` of R455 by distance code, `(DIST_BASE[c], DIST_EXTRA[c])`, with its default rows (parameter P-DIST, log entry 9); codes 0 to 2 are the cache codes and have no band. -/
def distTable : List (Nat × Nat) :=
  distTablePart0 ++ distTablePart1

/-- The repeat bands `(RUNBASE[t], RUNEXTRA[t])` of code-length symbols 15 to 19 (47_block_decoder.md R706). -/
def runTable : List (Nat × Nat) :=
  [(2, 0), (3, 1), (5, 2), (9, 3), (17, 7)]

/-- `LEN_BASE[i]` (R450). -/
def lenBase (i : Nat) : Nat := (lenTable.getD i (0, 0)).1

/-- `LEN_EXTRA[i]` (R450). -/
def lenExtra (i : Nat) : Nat := (lenTable.getD i (0, 0)).2

/-- `DIST_BASE[c]` (R455). -/
def distBase (c : Nat) : Nat := (distTable.getD c (0, 0)).1

/-- `DIST_EXTRA[c]` (R455). -/
def distExtra (c : Nat) : Nat := (distTable.getD c (0, 0)).2

/-- `RUNBASE[t]` (R706). -/
def runBase (t : Nat) : Nat := (runTable.getD (t - 15) (0, 0)).1

/-- `RUNEXTRA[t]` (R706); a symbol 0 to 14 has no extra bits. -/
def runExtra (t : Nat) : Nat := if t < 15 then 0 else (runTable.getD (t - 15) (0, 0)).2

/-- How many extra bits follow the symbol `sym` of a format (R310 to R312). -/
def extraBits (f : Format) (sym : Nat) : Nat :=
  match f with
  | .cmdw => 0
  | .hdr => 0
  | .btype => 0
  | .clsym => runExtra sym
  | .llsym => if sym < 256 then 0 else lenExtra (sym - 256)
  | .dsym => distExtra sym

/-- `LEVEL` values (R301). -/
def levelOfBits (b : BitVec 2) : Level :=
  if b = 0 then .fastest else if b = 1 then .fast else if b = 2 then .normal else .maximum

/-- The two bits of a level (R301). -/
def levelBits : Level → BitVec 2
  | .fastest => 0
  | .fast => 1
  | .normal => 2
  | .maximum => 3

/-- The command of a value written to `CMD`: `OP` is bits 2:0 and `LEVEL` bits 5:4; the reserved bits are ignored (R301). -/
def decodeCommand (w : Word) : Instr :=
  let op := w.extractLsb' 0 3
  let level := levelOfBits (w.extractLsb' 4 2)
  if op = 0 then .nop
  else if op = 1 then .compress level
  else if op = 2 then .decompress
  else if op = 3 then .getLength
  else if op = 4 then .measure level
  else if op = 5 then .reservedOp5
  else if op = 6 then .reservedOp6
  else .reservedOp7

/-- The header form of `h` (R302); the row of `h = 0` is matched first (R314). -/
def decodeHeader (h : Word) : Instr :=
  if h = 0 then .hdrStoredEmpty else if h.msb then .hdrStored h else .hdrHuffman h

/-- The code-length tokens by symbol `t`, with extra value `x` (R310, R314), entries 0 to 19. -/
def clInstrsPart0 (x : Nat) : List Instr :=
  [.clLen0, .clLen1, .clLen2, .clLen3, .clLen4,
   .clLen5, .clLen6, .clLen7, .clLen8, .clLen9,
   .clLen10, .clLen11, .clLen12, .clLen13, .clLen14,
   .clRep2, .clRep3_4 (BitVec.ofNat 1 x), .clRep5_8 (BitVec.ofNat 2 x), .clRep9_16 (BitVec.ofNat 3 x), .clRep17_144 (BitVec.ofNat 7 x)]

/-- The code-length tokens by symbol `t`, with extra value `x` (R310, R314). -/
def clInstrs (x : Nat) : List Instr :=
  clInstrsPart0 x

/-- The length tokens by code `i = s - 256`, with extra value `x` (R311, R314), entries 0 to 31. -/
def lenInstrsPart0 (x : Nat) : List Instr :=
  [.len0, .len1, .len2, .len3,
   .len4, .len5, .len6, .len7,
   .len8, .len9, .len10, .len11,
   .len12, .len13, .len14, .len15,
   .len16 (BitVec.ofNat 1 x), .len17 (BitVec.ofNat 1 x), .len18 (BitVec.ofNat 1 x), .len19 (BitVec.ofNat 1 x),
   .len20 (BitVec.ofNat 1 x), .len21 (BitVec.ofNat 1 x), .len22 (BitVec.ofNat 1 x), .len23 (BitVec.ofNat 1 x),
   .len24 (BitVec.ofNat 1 x), .len25 (BitVec.ofNat 1 x), .len26 (BitVec.ofNat 1 x), .len27 (BitVec.ofNat 1 x),
   .len28 (BitVec.ofNat 1 x), .len29 (BitVec.ofNat 1 x), .len30 (BitVec.ofNat 1 x), .len31 (BitVec.ofNat 1 x)]

/-- The length tokens by code `i = s - 256`, with extra value `x` (R311, R314), entries 32 to 63. -/
def lenInstrsPart1 (x : Nat) : List Instr :=
  [.len32 (BitVec.ofNat 2 x), .len33 (BitVec.ofNat 2 x), .len34 (BitVec.ofNat 2 x), .len35 (BitVec.ofNat 2 x),
   .len36 (BitVec.ofNat 2 x), .len37 (BitVec.ofNat 2 x), .len38 (BitVec.ofNat 2 x), .len39 (BitVec.ofNat 2 x),
   .len40 (BitVec.ofNat 2 x), .len41 (BitVec.ofNat 2 x), .len42 (BitVec.ofNat 2 x), .len43 (BitVec.ofNat 2 x),
   .len44 (BitVec.ofNat 2 x), .len45 (BitVec.ofNat 2 x), .len46 (BitVec.ofNat 2 x), .len47 (BitVec.ofNat 2 x),
   .len48 (BitVec.ofNat 3 x), .len49 (BitVec.ofNat 3 x), .len50 (BitVec.ofNat 3 x), .len51 (BitVec.ofNat 3 x),
   .len52 (BitVec.ofNat 3 x), .len53 (BitVec.ofNat 3 x), .len54 (BitVec.ofNat 3 x), .len55 (BitVec.ofNat 3 x),
   .len56 (BitVec.ofNat 4 x), .len57 (BitVec.ofNat 4 x), .len58 (BitVec.ofNat 4 x), .len59 (BitVec.ofNat 4 x),
   .len60 (BitVec.ofNat 6 x), .len61 (BitVec.ofNat 6 x), .len62 (BitVec.ofNat 8 x), .len63 (BitVec.ofNat 14 x)]

/-- The length tokens by code `i = s - 256`, with extra value `x` (R311, R314). -/
def lenInstrs (x : Nat) : List Instr :=
  lenInstrsPart0 x ++ lenInstrsPart1 x

/-- The distance tokens by code `c`, with extra value `x` (R312, R314), entries 0 to 31. -/
def distInstrsPart0 (x : Nat) : List Instr :=
  [.rep0, .rep1, .rep2, .dist3,
   .dist4, .dist5, .dist6, .dist7,
   .dist8, .dist9 (BitVec.ofNat 1 x), .dist10 (BitVec.ofNat 1 x), .dist11 (BitVec.ofNat 1 x),
   .dist12 (BitVec.ofNat 1 x), .dist13 (BitVec.ofNat 2 x), .dist14 (BitVec.ofNat 2 x), .dist15 (BitVec.ofNat 2 x),
   .dist16 (BitVec.ofNat 2 x), .dist17 (BitVec.ofNat 3 x), .dist18 (BitVec.ofNat 3 x), .dist19 (BitVec.ofNat 3 x),
   .dist20 (BitVec.ofNat 3 x), .dist21 (BitVec.ofNat 4 x), .dist22 (BitVec.ofNat 4 x), .dist23 (BitVec.ofNat 4 x),
   .dist24 (BitVec.ofNat 4 x), .dist25 (BitVec.ofNat 5 x), .dist26 (BitVec.ofNat 5 x), .dist27 (BitVec.ofNat 5 x),
   .dist28 (BitVec.ofNat 5 x), .dist29 (BitVec.ofNat 6 x), .dist30 (BitVec.ofNat 6 x), .dist31 (BitVec.ofNat 6 x)]

/-- The distance tokens by code `c`, with extra value `x` (R312, R314), entries 32 to 63. -/
def distInstrsPart1 (x : Nat) : List Instr :=
  [.dist32 (BitVec.ofNat 6 x), .dist33 (BitVec.ofNat 7 x), .dist34 (BitVec.ofNat 7 x), .dist35 (BitVec.ofNat 7 x),
   .dist36 (BitVec.ofNat 7 x), .dist37 (BitVec.ofNat 8 x), .dist38 (BitVec.ofNat 8 x), .dist39 (BitVec.ofNat 8 x),
   .dist40 (BitVec.ofNat 8 x), .dist41 (BitVec.ofNat 9 x), .dist42 (BitVec.ofNat 9 x), .dist43 (BitVec.ofNat 9 x),
   .dist44 (BitVec.ofNat 9 x), .dist45 (BitVec.ofNat 10 x), .dist46 (BitVec.ofNat 10 x), .dist47 (BitVec.ofNat 10 x),
   .dist48 (BitVec.ofNat 10 x), .dist49 (BitVec.ofNat 11 x), .dist50 (BitVec.ofNat 11 x), .dist51 (BitVec.ofNat 11 x),
   .dist52 (BitVec.ofNat 11 x), .dist53 (BitVec.ofNat 12 x), .dist54 (BitVec.ofNat 12 x), .dist55 (BitVec.ofNat 12 x),
   .dist56 (BitVec.ofNat 12 x), .dist57 (BitVec.ofNat 15 x), .dist58 (BitVec.ofNat 15 x), .dist59 (BitVec.ofNat 15 x),
   .dist60 (BitVec.ofNat 16 x), .dist61 (BitVec.ofNat 16 x), .dist62 (BitVec.ofNat 17 x), .dist63 (BitVec.ofNat 17 x)]

/-- The distance tokens by code `c`, with extra value `x` (R312, R314). -/
def distInstrs (x : Nat) : List Instr :=
  distInstrsPart0 x ++ distInstrsPart1 x

/-- The token of a symbol value and its extra bits, for the format the decoder's state selects (R314). -/
def decodeSym (f : Format) (sym x : Nat) : Except Reject Instr :=
  if 2 ^ extraBits f sym ≤ x then .error (.extraBitsOutOfRange x)
  else
    match f with
    | .cmdw => .ok (decodeCommand (BitVec.ofNat 32 sym))
    | .hdr => .ok (decodeHeader (BitVec.ofNat 32 sym))
    | .btype => .ok (if sym % 2 = 0 then .storedBlock else .compressedBlock)
    | .clsym =>
      match (clInstrs x)[sym]? with
      | some i => .ok i
      | none => .error (.reservedCodeLengthSymbol sym)
    | .llsym =>
      if sym < 256 then .ok (.lit (BitVec.ofNat 8 sym))
      else
        match (lenInstrs x)[sym - 256]? with
        | some i => .ok i
        | none => .error (.reservedLiteralSymbol sym)
    | .dsym =>
      match (distInstrs x)[sym]? with
      | some i => .ok i
      | none => .error (.reservedDistanceSymbol sym)

/-- The width of the symbol field of a format's word: the mask of its rows in spec/opcode_table.json. -/
def Format.symBits : Format → Nat
  | .cmdw => 32
  | .hdr => 32
  | .btype => 1
  | .clsym => 5
  | .llsym => 9
  | .dsym => 6

/-- A token word: the symbol value in the low bits and the extra bits above it. -/
def decodeWord (f : Format) (w : Nat) : Except Reject Instr :=
  decodeSym f (w % 2 ^ f.symBits) (w / 2 ^ f.symBits)

/-- The number that little-endian bytes stand for (20_memory.md R203, R204). -/
def leNat : List Byte → Nat
  | [] => 0
  | b :: rest => b.toNat + 256 * leNat rest

/-- Decoding of any bytes as one token word of a format. -/
def decodeBytes (f : Format) (bytes : List Byte) : Except Reject Instr :=
  decodeWord f (leNat bytes)

/-- What an instruction is encoded as: its format, its symbol value and its extra value. -/
structure Token where
  fmt : Format
  sym : Nat
  x : Nat
deriving DecidableEq, Repr

/-- The encoding of an instruction, row by row of spec/opcode_table.json; a header's or a command's symbol value is its
whole 32-bit word, with reserved bits 0. -/
def encode : Instr → Token
  | .nop => Token.mk .cmdw 0 0
  | .compress level => Token.mk .cmdw (1 + 16 * (levelBits level).toNat) 0
  | .decompress => Token.mk .cmdw 2 0
  | .getLength => Token.mk .cmdw 3 0
  | .measure level => Token.mk .cmdw (4 + 16 * (levelBits level).toNat) 0
  | .reservedOp5 => Token.mk .cmdw 5 0
  | .reservedOp6 => Token.mk .cmdw 6 0
  | .reservedOp7 => Token.mk .cmdw 7 0
  | .hdrStoredEmpty => Token.mk .hdr 0 0
  | .hdrStored h => Token.mk .hdr h.toNat 0
  | .hdrHuffman h => Token.mk .hdr h.toNat 0
  | .storedBlock => Token.mk .btype 0 0
  | .compressedBlock => Token.mk .btype 1 0
  | .clLen0 => Token.mk .clsym 0 0
  | .clLen1 => Token.mk .clsym 1 0
  | .clLen2 => Token.mk .clsym 2 0
  | .clLen3 => Token.mk .clsym 3 0
  | .clLen4 => Token.mk .clsym 4 0
  | .clLen5 => Token.mk .clsym 5 0
  | .clLen6 => Token.mk .clsym 6 0
  | .clLen7 => Token.mk .clsym 7 0
  | .clLen8 => Token.mk .clsym 8 0
  | .clLen9 => Token.mk .clsym 9 0
  | .clLen10 => Token.mk .clsym 10 0
  | .clLen11 => Token.mk .clsym 11 0
  | .clLen12 => Token.mk .clsym 12 0
  | .clLen13 => Token.mk .clsym 13 0
  | .clLen14 => Token.mk .clsym 14 0
  | .clRep2 => Token.mk .clsym 15 0
  | .clRep3_4 x => Token.mk .clsym 16 x.toNat
  | .clRep5_8 x => Token.mk .clsym 17 x.toNat
  | .clRep9_16 x => Token.mk .clsym 18 x.toNat
  | .clRep17_144 x => Token.mk .clsym 19 x.toNat
  | .lit b => Token.mk .llsym b.toNat 0
  | .len0 => Token.mk .llsym 256 0
  | .len1 => Token.mk .llsym 257 0
  | .len2 => Token.mk .llsym 258 0
  | .len3 => Token.mk .llsym 259 0
  | .len4 => Token.mk .llsym 260 0
  | .len5 => Token.mk .llsym 261 0
  | .len6 => Token.mk .llsym 262 0
  | .len7 => Token.mk .llsym 263 0
  | .len8 => Token.mk .llsym 264 0
  | .len9 => Token.mk .llsym 265 0
  | .len10 => Token.mk .llsym 266 0
  | .len11 => Token.mk .llsym 267 0
  | .len12 => Token.mk .llsym 268 0
  | .len13 => Token.mk .llsym 269 0
  | .len14 => Token.mk .llsym 270 0
  | .len15 => Token.mk .llsym 271 0
  | .len16 x => Token.mk .llsym 272 x.toNat
  | .len17 x => Token.mk .llsym 273 x.toNat
  | .len18 x => Token.mk .llsym 274 x.toNat
  | .len19 x => Token.mk .llsym 275 x.toNat
  | .len20 x => Token.mk .llsym 276 x.toNat
  | .len21 x => Token.mk .llsym 277 x.toNat
  | .len22 x => Token.mk .llsym 278 x.toNat
  | .len23 x => Token.mk .llsym 279 x.toNat
  | .len24 x => Token.mk .llsym 280 x.toNat
  | .len25 x => Token.mk .llsym 281 x.toNat
  | .len26 x => Token.mk .llsym 282 x.toNat
  | .len27 x => Token.mk .llsym 283 x.toNat
  | .len28 x => Token.mk .llsym 284 x.toNat
  | .len29 x => Token.mk .llsym 285 x.toNat
  | .len30 x => Token.mk .llsym 286 x.toNat
  | .len31 x => Token.mk .llsym 287 x.toNat
  | .len32 x => Token.mk .llsym 288 x.toNat
  | .len33 x => Token.mk .llsym 289 x.toNat
  | .len34 x => Token.mk .llsym 290 x.toNat
  | .len35 x => Token.mk .llsym 291 x.toNat
  | .len36 x => Token.mk .llsym 292 x.toNat
  | .len37 x => Token.mk .llsym 293 x.toNat
  | .len38 x => Token.mk .llsym 294 x.toNat
  | .len39 x => Token.mk .llsym 295 x.toNat
  | .len40 x => Token.mk .llsym 296 x.toNat
  | .len41 x => Token.mk .llsym 297 x.toNat
  | .len42 x => Token.mk .llsym 298 x.toNat
  | .len43 x => Token.mk .llsym 299 x.toNat
  | .len44 x => Token.mk .llsym 300 x.toNat
  | .len45 x => Token.mk .llsym 301 x.toNat
  | .len46 x => Token.mk .llsym 302 x.toNat
  | .len47 x => Token.mk .llsym 303 x.toNat
  | .len48 x => Token.mk .llsym 304 x.toNat
  | .len49 x => Token.mk .llsym 305 x.toNat
  | .len50 x => Token.mk .llsym 306 x.toNat
  | .len51 x => Token.mk .llsym 307 x.toNat
  | .len52 x => Token.mk .llsym 308 x.toNat
  | .len53 x => Token.mk .llsym 309 x.toNat
  | .len54 x => Token.mk .llsym 310 x.toNat
  | .len55 x => Token.mk .llsym 311 x.toNat
  | .len56 x => Token.mk .llsym 312 x.toNat
  | .len57 x => Token.mk .llsym 313 x.toNat
  | .len58 x => Token.mk .llsym 314 x.toNat
  | .len59 x => Token.mk .llsym 315 x.toNat
  | .len60 x => Token.mk .llsym 316 x.toNat
  | .len61 x => Token.mk .llsym 317 x.toNat
  | .len62 x => Token.mk .llsym 318 x.toNat
  | .len63 x => Token.mk .llsym 319 x.toNat
  | .rep0 => Token.mk .dsym 0 0
  | .rep1 => Token.mk .dsym 1 0
  | .rep2 => Token.mk .dsym 2 0
  | .dist3 => Token.mk .dsym 3 0
  | .dist4 => Token.mk .dsym 4 0
  | .dist5 => Token.mk .dsym 5 0
  | .dist6 => Token.mk .dsym 6 0
  | .dist7 => Token.mk .dsym 7 0
  | .dist8 => Token.mk .dsym 8 0
  | .dist9 x => Token.mk .dsym 9 x.toNat
  | .dist10 x => Token.mk .dsym 10 x.toNat
  | .dist11 x => Token.mk .dsym 11 x.toNat
  | .dist12 x => Token.mk .dsym 12 x.toNat
  | .dist13 x => Token.mk .dsym 13 x.toNat
  | .dist14 x => Token.mk .dsym 14 x.toNat
  | .dist15 x => Token.mk .dsym 15 x.toNat
  | .dist16 x => Token.mk .dsym 16 x.toNat
  | .dist17 x => Token.mk .dsym 17 x.toNat
  | .dist18 x => Token.mk .dsym 18 x.toNat
  | .dist19 x => Token.mk .dsym 19 x.toNat
  | .dist20 x => Token.mk .dsym 20 x.toNat
  | .dist21 x => Token.mk .dsym 21 x.toNat
  | .dist22 x => Token.mk .dsym 22 x.toNat
  | .dist23 x => Token.mk .dsym 23 x.toNat
  | .dist24 x => Token.mk .dsym 24 x.toNat
  | .dist25 x => Token.mk .dsym 25 x.toNat
  | .dist26 x => Token.mk .dsym 26 x.toNat
  | .dist27 x => Token.mk .dsym 27 x.toNat
  | .dist28 x => Token.mk .dsym 28 x.toNat
  | .dist29 x => Token.mk .dsym 29 x.toNat
  | .dist30 x => Token.mk .dsym 30 x.toNat
  | .dist31 x => Token.mk .dsym 31 x.toNat
  | .dist32 x => Token.mk .dsym 32 x.toNat
  | .dist33 x => Token.mk .dsym 33 x.toNat
  | .dist34 x => Token.mk .dsym 34 x.toNat
  | .dist35 x => Token.mk .dsym 35 x.toNat
  | .dist36 x => Token.mk .dsym 36 x.toNat
  | .dist37 x => Token.mk .dsym 37 x.toNat
  | .dist38 x => Token.mk .dsym 38 x.toNat
  | .dist39 x => Token.mk .dsym 39 x.toNat
  | .dist40 x => Token.mk .dsym 40 x.toNat
  | .dist41 x => Token.mk .dsym 41 x.toNat
  | .dist42 x => Token.mk .dsym 42 x.toNat
  | .dist43 x => Token.mk .dsym 43 x.toNat
  | .dist44 x => Token.mk .dsym 44 x.toNat
  | .dist45 x => Token.mk .dsym 45 x.toNat
  | .dist46 x => Token.mk .dsym 46 x.toNat
  | .dist47 x => Token.mk .dsym 47 x.toNat
  | .dist48 x => Token.mk .dsym 48 x.toNat
  | .dist49 x => Token.mk .dsym 49 x.toNat
  | .dist50 x => Token.mk .dsym 50 x.toNat
  | .dist51 x => Token.mk .dsym 51 x.toNat
  | .dist52 x => Token.mk .dsym 52 x.toNat
  | .dist53 x => Token.mk .dsym 53 x.toNat
  | .dist54 x => Token.mk .dsym 54 x.toNat
  | .dist55 x => Token.mk .dsym 55 x.toNat
  | .dist56 x => Token.mk .dsym 56 x.toNat
  | .dist57 x => Token.mk .dsym 57 x.toNat
  | .dist58 x => Token.mk .dsym 58 x.toNat
  | .dist59 x => Token.mk .dsym 59 x.toNat
  | .dist60 x => Token.mk .dsym 60 x.toNat
  | .dist61 x => Token.mk .dsym 61 x.toNat
  | .dist62 x => Token.mk .dsym 62 x.toNat
  | .dist63 x => Token.mk .dsym 63 x.toNat

/-- The token word of an instruction: `decodeWord` reads it back. -/
def encodeWord (i : Instr) : Nat :=
  (encode i).sym + 2 ^ (encode i).fmt.symBits * (encode i).x

/-- The low `k` bytes of a number, lowest first (20_memory.md R203). -/
def leBytes : Nat → Nat → List Byte
  | 0, _ => []
  | k + 1, w => BitVec.ofNat 8 w :: leBytes k (w / 256)

/-- The bytes of an instruction's token word; four bytes hold the widest (a command, a header, or 6 + 17 bits). -/
def encodeBytes (i : Instr) : List Byte := leBytes 4 (encodeWord i)

/-- The format that a word of spec/opcode_table.json is read in when no decoder state is given: the words of the table
do not carry the state that R314 says decides it, so width and value choose (DESIGN CHOICE, log entry 12). -/
def tableFormat (nbits w : Nat) : Format :=
  if nbits ≤ 8 then
    if w < 8 then .cmdw else if w < 20 then .clsym else .dsym
  else if nbits ≤ 16 then
    if 256 ≤ w % 512 then .llsym
    else if 512 ≤ w then .dsym
    else if 37 ≤ w ∧ w < 60 then .dsym
    else .llsym
  else if nbits ≤ 24 then .dsym
  else if 0 < w ∧ w < 64 ∧ w % 16 < 8 then .cmdw
  else .hdr

/-- The instruction the decoder reads from a word numbered as spec/opcode_table.json numbers it: its bytes, lowest
first, are given to `decodeBytes` in the format of `tableFormat`. -/
def decodeTableWord (nbits w : Nat) : Option Instr :=
  match decodeBytes (tableFormat nbits w) (leBytes 4 w) with
  | .ok i => some i
  | .error _ => none

end Sys2Proof
end

