-- ==== Sys2Proof/Machine/State.lean ====
section
/-! DEFINITION. The machine's state as plain data: the register block (10_state.md R104 to R117), the latched
operands (R118), the engine's memories and registers (R120 to R127), host memory (20_memory.md R200), and the model's
own fields. State.reset is 70_reset_and_hazards.md R951. -/

namespace Sys2Proof.Machine

/-- Why a step stops with a fault. Neither stop is reached by a run from reset (48_symbol_decoder_and_copy.md R751,
30_encoding.md R314); both are SAFE, since the hardware has no such state. -/
inductive Fault where
  /-- Raised by the meaning of a command or token executed in a decoder state in which R314 has no such token. Safe. -/
  | tokenOutOfPlace
  /-- Raised by `GetCode` when it reads an EMPTY slot or walks past the longest code, which R751 excludes. Safe. -/
  | badTree
deriving DecidableEq, Repr

/-- Why a step is refused. -/
inductive Refusal where
  /-- Raised by `exec` for an instruction without a meaning. Safe. -/
  | notModelled (mnemonic : String)
  /-- Raised by a host access to the register block that is not an aligned 32-bit access to offsets 0x00 to 0x3F
  (R104: "a model refuses it"; 93_implementation_defined.md V5). Safe: the spec puts it outside the contract. -/
  | registerAccess
  /-- Raised by the fetch of a token whose tree leaf is no symbol of its alphabet (R751 excludes it). Safe. -/
  | reservedSymbol
deriving DecidableEq, Repr

/-- The error kinds of 60_exceptions.md R900; their codes are `ErrCode.code`. -/
inductive ErrCode where
  | nullInput
  | insufficientDestination
  | truncatedInput
  | corruptInput
  | inputTooLarge
  | badRange
  | illegalCommand
deriving DecidableEq, Repr

/-- The register block (R104). `ID` and the reserved fields are constants of the read operation. -/
structure Regs where
  /-- `CMD.OP` (R106). -/
  cmdOp : BitVec 3
  /-- `CMD.LEVEL` (R106). -/
  cmdLevel : BitVec 2
  /-- `STATUS.BUSY` (R107). -/
  busy : Bool
  /-- `STATUS.DONE` (R107). -/
  done : Bool
  /-- `STATUS.ERR` (R107). -/
  err : Bool
  /-- `STATUS.OVERRUN` (R107). -/
  overrun : Bool
  /-- `ERRCODE` bits 3:0 (R108). -/
  errcode : BitVec 4
  /-- `SRC_ADDR` (R109). -/
  srcAddr : Word
  /-- `SRC_LEN` (R110). -/
  srcLen : Word
  /-- `DST_ADDR` (R111). -/
  dstAddr : Word
  /-- `DST_CAP` (R112). -/
  dstCap : Word
  /-- `RESULT_LEN` (R113). -/
  resultLen : Word
  /-- `RESULT_INFO.FORM` (R114). -/
  form : Bool
  /-- `RESULT_INFO.FALLBACK` (R114). -/
  fallback : Bool
  /-- `ERR_OFFSET` (R115). -/
  errOffset : Word
  /-- `IRQ_EN.DONE_IE` (R116). -/
  doneIe : Bool
  /-- `IRQ_EN.ERR_IE` (R116). -/
  errIe : Bool
deriving DecidableEq, Repr

/-- The operands latched at command start (R118). -/
structure Latched where
  /-- `L_OP`. -/
  op : BitVec 3
  /-- `L_LEVEL`. -/
  level : BitVec 2
  /-- `L_SRC`. -/
  src : Word
  /-- `n`. -/
  n : Word
  /-- `L_DST`. -/
  dst : Word
  /-- `L_CAP`. -/
  cap : Word
deriving DecidableEq, Repr

/-- One entry of `HEAD` or `CHAIN` (R120). -/
structure Link where
  valid : Bool
  pos : Word
deriving DecidableEq, Repr

/-- The current-match register `cur` (R121). -/
structure Cur where
  present : Bool
  len : BitVec 15
  dist : BitVec 20
deriving DecidableEq, Repr

/-- The match finder's memories and registers (R120, R121). A table lists the entries written, indexes rising; an
unlisted entry is {0, 0}. -/
structure MatchFinder where
  head : List (Nat × Link)
  chain : List (Nat × Link)
  p : Word
  ins : Word
  cur : Cur
  profile : Config.Profile
deriving DecidableEq, Repr

/-- One entry of `SYMBUF` (R122): a literal (`kind` 0) or a match (`kind` 1). -/
inductive Sym where
  | literal (byte : Byte)
  | copy (lcode : BitVec 6) (lextra : BitVec 14) (dcode : BitVec 6) (dextra : BitVec 17)
deriving DecidableEq, Repr

/-- The symbol buffer and frequency tables (R122). `symbuf` lists the buffered entries, first one first. -/
structure SymBuffer where
  symbuf : List Sym
  nsym : BitVec 14
  span : Word
  blockStart : Word
  litFreq : List (BitVec 14)
  distFreq : List (BitVec 14)
  clFreq : List (BitVec 9)
deriving DecidableEq, Repr

/-- One item of `LITRLE` or `DISTRLE` (R123). -/
structure RleItem where
  sym : BitVec 5
  nextra : BitVec 3
  extra : BitVec 7
deriving DecidableEq, Repr

/-- One scratch node of the Huffman builder (R123); an id fits 10 bits. -/
structure Node where
  freq : BitVec 14
  height : BitVec 5
  id : BitVec 10
  child0 : BitVec 10
  child1 : BitVec 10
deriving DecidableEq, Repr

/-- The code tables, the RLE items and the builder's scratch (R123). -/
structure CodeTables where
  litLen : List (BitVec 4)
  litCode : List (BitVec 14)
  distLen : List (BitVec 4)
  distCode : List (BitVec 14)
  clLen : List (BitVec 3)
  clCode : List (BitVec 7)
  litRle : List RleItem
  distRle : List RleItem
  nodes : List Node
  blcount : List Nat
deriving DecidableEq, Repr

/-- The repeat-distance cache, or its snapshot (R125); 0 means empty. -/
structure Cache where
  r0 : BitVec 20
  r1 : BitVec 20
  r2 : BitVec 20
deriving DecidableEq, Repr

/-- `WMODE` (45_bit_writer.md R600). -/
inductive WMode where
  | write
  | measure
deriving DecidableEq, Repr

/-- The bit writer (R600). -/
structure Writer where
  /-- `WACC`. -/
  acc : Word
  /-- `WK`. -/
  k : BitVec 5
  /-- `wwords`: the 30 bits of R600. As the 32-bit position of 10_state.md R103 it is `Writer.wwords` (log entry 24). -/
  words : BitVec 30
  /-- `WCAP`. -/
  cap : Word
  /-- `WBASE`. -/
  base : Word
  /-- `WMODE`. -/
  mode : WMode
deriving DecidableEq, Repr

/-- The bit reader (46_bit_reader.md R650). -/
structure Reader where
  /-- `RACC`. -/
  acc : Word
  /-- `RK`. -/
  k : BitVec 5
  /-- `rp`. -/
  rp : Word
  /-- `P`. -/
  len : Word
  /-- `RBASE`. -/
  base : Word
deriving DecidableEq, Repr

/-- A slot of a decoder tree (R124, R750): `EMPTY`, a leaf (stored as `-s`), or an internal node `k > 0`. -/
inductive Slot where
  | empty
  | leaf (sym : BitVec 9)
  | node (index : BitVec 9)
deriving DecidableEq, Repr

/-- The decoder's trees, length arrays and counters (R124, R127). -/
structure Decoder where
  litTree : List Slot
  distTree : List Slot
  clTree : List Slot
  lensLit : List (BitVec 4)
  lensDist : List (BitVec 4)
  lensCl : List (BitVec 4)
  out : Word
  m : Word
  bsym : BitVec 14
deriving DecidableEq, Repr

/-- Which of the two code-length sequences of a `CHDR` is being read (30_encoding.md R307). -/
inductive RleSeq where
  | literal
  | distance
deriving DecidableEq, Repr

/-- Where the engine stands (the decoder state of R314; the model's own field, log entry 1). -/
inductive Phase where
  /-- `BUSY` is 0: the engine waits for a `CMD` write (R951). -/
  | idle
  /-- A command is latched and its work is next (49_host_commands.md R800 step 5). -/
  | start
  /-- DECOMPRESS is at the header (47_block_decoder.md R701). -/
  | header
  /-- At the start of a block (R702). -/
  | block
  /-- In `UnRLE` (R706): `i` of `count` lengths are decoded. -/
  | rle (seq : RleSeq) (count : Nat) (i : Nat)
  /-- At a literal/length symbol (R710). -/
  | symbol
  /-- After a length token of match length `len`, at its distance symbol (R755). -/
  | dist (len : Nat)
deriving DecidableEq, Repr

/-- A range of host memory whose unlisted bytes are `any value`: they read as free values of this nonce. -/
structure Region where
  base : Nat
  len : Nat
  nonce : Nat
deriving DecidableEq, Repr

/-- Host memory (R200): the bytes that have a known value, addresses strictly rising, and the ranges whose other bytes
the spec leaves open, newest first. -/
structure Memory where
  cells : List Host.Cell
  unspec : List Region
deriving DecidableEq, Repr

/-- One action of the host (70_reset_and_hazards.md R956), or the engine's turn. -/
inductive Input where
  /-- `rst` is asserted (R950). -/
  | reset
  /-- A read of `width` bits at `REG_BASE + offset` (R104). -/
  | regRead (width offset : Nat)
  /-- A write of `width` bits at `REG_BASE + offset` (R104). -/
  | regWrite (width offset : Nat) (value : Word)
  /-- A host read of one byte of host memory. -/
  | memRead (addr : Word)
  /-- A host write of one byte of host memory. -/
  | memWrite (addr : Word) (value : Byte)
  /-- The engine takes the steps of its instruction that are left, with no host action between them (log entry 1). -/
  | engine
  /-- The engine takes one step: one access of host memory, or the register update that ends its instruction
  (70_reset_and_hazards.md R958). -/
  | tick
deriving DecidableEq, Repr

/-- The whole machine. The last six fields are the model's own: where the engine stands (`phase`), how many accesses of
host memory its instruction has made so far (`made`, log entry 1), the counter of free values (`fresh`), whether the host
broke R213 (`tainted`, log entry 6), what the host does next (`inputs`) and what its last read returned (`hostData`, log
entry 2). -/
structure State where
  regs : Regs
  lat : Latched
  mf : MatchFinder
  buf : SymBuffer
  tab : CodeTables
  cache : Cache
  snap : Cache
  wr : Writer
  rd : Reader
  dec : Decoder
  mem : Memory
  phase : Phase
  made : Nat
  fresh : Nat
  tainted : Bool
  inputs : List Input
  hostData : Word
deriving DecidableEq, Repr

/-- The register block after reset (R951). -/
def Regs.reset : Regs :=
  { cmdOp := 0, cmdLevel := 0, busy := false, done := false, err := false, overrun := false, errcode := 0,
    srcAddr := 0, srcLen := 0, dstAddr := 0, dstCap := 0, resultLen := 0, form := false, fallback := false,
    errOffset := 0, doneIe := false, errIe := false }

/-- The latched operands after reset: R951 leaves them unspecified and lets a model set 0 (log entry 7). -/
def Latched.reset : Latched := { op := 0, level := 0, src := 0, n := 0, dst := 0, cap := 0 }

/-- The match finder after reset: unspecified by R951, all 0 here (log entry 7). -/
def MatchFinder.reset : MatchFinder :=
  { head := [], chain := [], p := 0, ins := 0, cur := { present := false, len := 0, dist := 0 },
    profile := Config.profileTable 0 }

/-- The symbol buffer after reset: unspecified by R951, all 0 here (log entry 7). -/
def SymBuffer.reset : SymBuffer :=
  { symbuf := [], nsym := 0, span := 0, blockStart := 0, litFreq := List.replicate Config.litN 0,
    distFreq := List.replicate Config.distN 0, clFreq := List.replicate Config.clN 0 }

/-- The code tables after reset: unspecified by R951, all 0 here (log entry 7). -/
def CodeTables.reset : CodeTables :=
  { litLen := List.replicate Config.litN 0, litCode := List.replicate Config.litN 0,
    distLen := List.replicate Config.distN 0, distCode := List.replicate Config.distN 0,
    clLen := List.replicate Config.clN 0, clCode := List.replicate Config.clN 0,
    litRle := [], distRle := [], nodes := [], blcount := List.replicate 15 0 }

/-- An empty repeat-distance cache (R462); also its value after reset (log entry 7). -/
def Cache.empty : Cache := { r0 := 0, r1 := 0, r2 := 0 }

/-- The bit writer after reset: unspecified by R951, all 0 here (log entry 7). -/
def Writer.reset : Writer := { acc := 0, k := 0, words := 0, cap := 0, base := 0, mode := .write }

/-- The bit reader after reset: unspecified by R951, all 0 here (log entry 7). -/
def Reader.reset : Reader := { acc := 0, k := 0, rp := 0, len := 0, base := 0 }

/-- The decoder after reset: unspecified by R951; trees EMPTY and the rest 0 here (log entry 7). -/
def Decoder.reset : Decoder :=
  { litTree := List.replicate 638 .empty, distTree := List.replicate 126 .empty, clTree := List.replicate 38 .empty,
    lensLit := List.replicate Config.litN 0, lensDist := List.replicate Config.distN 0,
    lensCl := List.replicate Config.clN 0, out := 0, m := 0, bsym := 0 }

/-- Host memory with no byte known: reset does not change it and the spec gives no contents (R951, log entry 3). -/
def Memory.unknown : Memory := { cells := [], unspec := [] }

/-- The machine right after reset (R951), with no host action pending. -/
def State.reset : State :=
  { regs := Regs.reset, lat := Latched.reset, mf := MatchFinder.reset, buf := SymBuffer.reset,
    tab := CodeTables.reset, cache := Cache.empty, snap := Cache.empty, wr := Writer.reset, rd := Reader.reset,
    dec := Decoder.reset, mem := Memory.unknown, phase := .idle, made := 0, fresh := 0, tainted := false, inputs := [],
    hostData := 0 }

end Sys2Proof.Machine
end

