-- ==== Sys2Proof/Machine/Flags.lean ====
section
/-! DEFINITION. The flags of the hardware (10_state.md R119): the `STATUS` bits (R107), the `RESULT_INFO` bits (R114),
who sets and clears each, and the interrupt line that follows from them (60_exceptions.md R906). -/

namespace Sys2Proof.Machine

/-- The code of an error in `ERRCODE` (R108, R900); `CORRUPT_INPUT` is 3 under parameter P-MERGE. -/
def ErrCode.code : ErrCode → BitVec 4
  | .nullInput => 1
  | .insufficientDestination => 2
  | .truncatedInput => 3
  | .corruptInput => if Config.mergeCorrupt then 3 else 4
  | .inputTooLarge => 5
  | .badRange => 6
  | .illegalCommand => 7

/-- The flags at the start of a command: DONE, ERR and the result and error registers cleared, BUSY set; OVERRUN and
`IRQ_EN` keep their values (49_host_commands.md R800 steps 3 and 4). -/
def Regs.flagsAtStart (r : Regs) : Regs :=
  { r with busy := true, done := false, err := false, errcode := 0, resultLen := 0, form := false,
           fallback := false, errOffset := 0 }

/-- The flags and result registers at successful completion (R813). -/
def Regs.flagsAtDone (r : Regs) (len : Word) (form fallback : Bool) : Regs :=
  { r with busy := false, done := true, resultLen := len, form := form, fallback := fallback }

/-- The flags and error registers at an error (60_exceptions.md R904 steps 2 to 4). -/
def Regs.flagsAtError (r : Regs) (e : ErrCode) (info : Word) : Regs :=
  { r with busy := false, err := true, done := false, errcode := e.code, errOffset := info, resultLen := 0,
           form := false, fallback := false }

/-- The flags and result registers at the end of a command during which the host broke 20_memory.md R213: it ends
with DONE or ERR, and every result register holds any value (U6; `ERRCODE` stays within 0 to 7, V4). -/
def Regs.flagsAtSpoiledEnd (r : Regs) (nonce : Nat) : Regs :=
  { r with busy := false, done := Config.freeBit nonce 0, err := !Config.freeBit nonce 0,
           errcode := ((Config.freeWord nonce 0).extractLsb' 0 3).zeroExtend 4,
           resultLen := Config.freeWord nonce 1, form := Config.freeBit nonce 1,
           fallback := Config.freeBit nonce 2, errOffset := Config.freeWord nonce 2 }

/-- A `CMD` write while BUSY sets OVERRUN and nothing else (R811). -/
def Regs.flagsAtOverrun (r : Regs) : Regs := { r with overrun := true }

/-- A write to `STATUS` clears each of DONE, ERR and OVERRUN that has a 1 in the written value (R814). -/
def Regs.clearW1C (r : Regs) (v : Word) : Regs :=
  { r with done := r.done && !v.getLsbD 1, err := r.err && !v.getLsbD 2, overrun := r.overrun && !v.getLsbD 3 }

/-- One bit as a word. -/
def bitWord (b : Bool) (i : Nat) : Word := if b then 1#32 <<< i else 0

/-- `STATUS` as the host reads it: bits 3:0, reserved bits 0 (R107). -/
def Regs.statusWord (r : Regs) : Word :=
  bitWord r.busy 0 ||| bitWord r.done 1 ||| bitWord r.err 2 ||| bitWord r.overrun 3

/-- `RESULT_INFO` as the host reads it (R114). -/
def Regs.resultInfoWord (r : Regs) : Word := bitWord r.form 0 ||| bitWord r.fallback 1

/-- `IRQ_EN` as the host reads it (R116). -/
def Regs.irqEnWord (r : Regs) : Word := bitWord r.doneIe 0 ||| bitWord r.errIe 1

/-- `CMD` as the host reads it: `OP` in bits 2:0, `LEVEL` in bits 5:4, reserved bits 0 (R106). -/
def Regs.cmdWord (r : Regs) : Word := r.cmdOp.zeroExtend 32 ||| (r.cmdLevel.zeroExtend 32 <<< 4)

/-- The interrupt line: level-sensitive, a function of the registers (R906). -/
def irq (s : State) : Bool := (s.regs.done && s.regs.doneIe) || (s.regs.err && s.regs.errIe)

end Sys2Proof.Machine
end

