-- ==== Sys2Proof/Machine/Memory.lean ====
section
/-! DEFINITION. Host memory (20_memory.md R200, R205): the two byte primitives, the little-endian words built from them
(R203, R204), ranges (R201, R202), and what the spec leaves unspecified in memory. -/

namespace Sys2Proof.Machine

/-- The known byte at an address, if any. -/
def cellsGet : List Host.Cell → Nat → Option Byte
  | [], _ => none
  | (k, v) :: rest, a => if a = k then some v else cellsGet rest a

/-- The cells after a byte write, addresses still rising. -/
def cellsSet : List Host.Cell → Nat → Byte → List Host.Cell
  | [], a, v => [(a, v)]
  | (k, w) :: rest, a, v =>
    if a < k then (a, v) :: (k, w) :: rest
    else if a = k then (a, v) :: rest
    else (k, w) :: cellsSet rest a v

/-- Whether the first address of a list, if there is one, is above a bound. -/
def aboveHead (k : Nat) : List Host.Cell → Bool
  | [] => true
  | (j, _) :: _ => decide (k < j)

/-- Addresses strictly rising. -/
def cellsAscend : List Host.Cell → Bool
  | [] => true
  | (k, _) :: rest => aboveHead k rest && cellsAscend rest

/-- The canonical form of host memory: addresses strictly rising and below 2^32. An unlisted address has no known
value, so no entry equals what it reads as. -/
def Memory.wf (m : Memory) : Bool := cellsAscend m.cells && m.cells.all (fun c => decide (c.1 < 2 ^ 32))

/-- Whether a region holds an address. -/
def Region.holds (r : Region) (a : Nat) : Bool := decide (r.base ≤ a) && decide (a < r.base + r.len)

/-- Which free value an unlisted address reads as: that of the newest unspecified range holding it, 0 outside them. -/
def nonceAt : List Region → Nat → Nat
  | [], _ => 0
  | r :: rest, a => if r.holds a then r.nonce else nonceAt rest a

/-- What an unlisted address reads as: a FREE VALUE (log entry 3). -/
def Memory.unlisted (m : Memory) (a : Nat) : Byte := Config.freeByte (nonceAt m.unspec a) a

/-- `MemRead(addr, 1)` (R205). -/
def Memory.read (m : Memory) (a : Word) : Byte :=
  match cellsGet m.cells a.toNat with
  | some v => v
  | none => m.unlisted a.toNat

/-- `MemWrite(addr, 1, v)` (R205). -/
def Memory.write (m : Memory) (a : Word) (v : Byte) : Memory :=
  { m with cells := cellsSet m.cells a.toNat v }

/-- The little-endian 32-bit value at an address (R203, R204, 46_bit_reader.md R652). -/
def Memory.readWord (m : Memory) (a : Word) : Word :=
  (m.read a).zeroExtend 32 ||| ((m.read (a + 1)).zeroExtend 32 <<< 8) |||
    ((m.read (a + 2)).zeroExtend 32 <<< 16) ||| ((m.read (a + 3)).zeroExtend 32 <<< 24)

/-- The little-endian write of a 32-bit value, byte 0 first (45_bit_writer.md R602, 20_memory.md R203). -/
def Memory.writeWord (m : Memory) (a : Word) (w : Word) : Memory :=
  (((m.write a (w.extractLsb' 0 8)).write (a + 1) (w.extractLsb' 8 8)).write (a + 2) (w.extractLsb' 16 8)).write
    (a + 3) (w.extractLsb' 24 8)

/-- The bytewise copy of `count` bytes from `src + i` to `dst + i`, `i` rising: each byte is read after the byte before
it is written (47_block_decoder.md R701, 49_host_commands.md R802, 48_symbol_decoder_and_copy.md R759). -/
def Memory.copyForward (dst src : Word) : Nat → Nat → Memory → Memory
  | 0, _, m => m
  | count + 1, i, m =>
    Memory.copyForward dst src count (i + 1)
      (m.write (dst + BitVec.ofNat 32 i) (m.read (src + BitVec.ofNat 32 i)))

/-- Every byte of a range becomes `any value` (93_implementation_defined.md U1, U2, U6): the range is recorded with a
nonce, and no byte of it is known. -/
def Memory.forget (m : Memory) (base len : Word) (nonce : Nat) : Memory :=
  let r : Region := { base := base.toNat, len := len.toNat, nonce := nonce }
  { cells := m.cells.filter (fun c => !r.holds c.1), unspec := r :: m.unspec }

/-- A range `[a, a + len)` wraps if `a + len > 2^32`, computed without overflow (R202). -/
def rangeWraps (a len : Word) : Bool := decide (2 ^ 32 < a.toNat + len.toNat)

/-- Both ranges are non-empty and they intersect (R202 item 3). -/
def rangesMeet (a alen b blen : Word) : Bool :=
  decide (0 < alen.toNat ∧ 0 < blen.toNat ∧ a.toNat < b.toNat + blen.toNat ∧ b.toNat < a.toNat + alen.toNat)

/-- Whether an address lies in `[a, a + len)`. -/
def inRange (addr a len : Word) : Bool := decide (a.toNat ≤ addr.toNat ∧ addr.toNat < a.toNat + len.toNat)

end Sys2Proof.Machine
end

