-- ==== Sys2Proof/Machine/Ops.lean ====
section
/-! DEFINITION. The operations every command shares: the start of a command (49_host_commands.md R800), its start checks
(R801), the error entry (60_exceptions.md R904), completion (R813), and reset (70_reset_and_hazards.md R950 to R952).
An error has no return (R905): the engine is idle again and takes the next command. -/

namespace Sys2Proof.Machine

/-- The outcome of a step of this machine. -/
abbrev Out := Host.Outcome State Fault Refusal

/-- Byte `i` of the latched source buffer, `src[i]` (00_scope.md R9). -/
def State.srcByte (s : State) (i : Nat) : Byte := s.mem.read (s.lat.src + BitVec.ofNat 32 i)

/-- The command writes its destination range: COMPRESS and DECOMPRESS only (20_memory.md R201). -/
def writesDst (op : BitVec 3) : Bool := decide (op = 1 ∨ op = 2)

/-- The command reads its source range: every command but NOP and the reserved ones (R201, R810, R812). -/
def readsSrc (op : BitVec 3) : Bool := decide (op = 1 ∨ op = 2 ∨ op = 3 ∨ op = 4)

/-- The source range wraps (20_memory.md R202 item 1). -/
def Latched.srcWraps (l : Latched) : Bool := rangeWraps l.src l.n

/-- A source or destination range is invalid (R202 items 1 to 3). -/
def Latched.rangesBad (l : Latched) : Bool :=
  rangeWraps l.src l.n || rangeWraps l.dst l.cap || rangesMeet l.src l.n l.dst l.cap

/-- COMPRESS's start checks, in order (R801). -/
def Latched.checkCompress (l : Latched) : Option ErrCode :=
  if l.src = 0 then some .nullInput
  else if Config.maxInput < l.n.toNat then some .inputTooLarge
  else if l.rangesBad then some .badRange
  else if l.cap.toNat < l.n.toNat + 4 then some .insufficientDestination
  else none

/-- DECOMPRESS's start checks 1 to 3, in order; check 4 needs the header (R801, R804). -/
def Latched.checkDecompress (l : Latched) : Option ErrCode :=
  if l.src = 0 then some .nullInput
  else if l.rangesBad then some .badRange
  else if l.n.toNat < 4 then some .truncatedInput
  else none

/-- GET_LENGTH's start checks, in order (R801). -/
def Latched.checkGetLength (l : Latched) : Option ErrCode :=
  if l.src = 0 then some .nullInput
  else if l.srcWraps then some .badRange
  else if l.n.toNat < 4 then some .truncatedInput
  else none

/-- MEASURE's start checks, in order (R801). -/
def Latched.checkMeasure (l : Latched) : Option ErrCode :=
  if l.src = 0 then some .nullInput
  else if Config.maxInput < l.n.toNat then some .inputTooLarge
  else if l.srcWraps then some .badRange
  else none

/-- The whole destination range becomes `any value` (20_memory.md R215, U1). -/
def State.forgetDst (s : State) : State :=
  { s with mem := s.mem.forget s.lat.dst s.lat.cap (s.fresh + 1), fresh := s.fresh + 1 }

/-- The destination of the command, if it has one, becomes `any value`. That a command other than COMPRESS and
DECOMPRESS has no destination to lose is R201 (DEDUCED, log entry 4). -/
def State.loseDst (s : State) : State := if writesDst s.lat.op then s.forgetDst else s

/-- The end of a command during which the host broke R213: destination and result registers hold any value, and the
command still ends (U6). -/
def State.endSpoiled (s : State) : State :=
  let t := s.loseDst
  { t with regs := t.regs.flagsAtSpoiledEnd (t.fresh + 1), fresh := t.fresh + 1, phase := .idle }

/-- THE ERROR ENTRY (60_exceptions.md R904): `raise E(info)`. The command stops, `ERRCODE` and `ERR_OFFSET` are
recorded, the result registers stay 0, and `ERR` is set with `BUSY` cleared in one step. After any error, one of a start
check too, every byte of the destination is unspecified (20_memory.md R215, U1; log entry 4). -/
def State.raiseError (s : State) (e : ErrCode) (info : Word) : State :=
  if s.tainted then s.endSpoiled
  else
    let t := s.loseDst
    { t with regs := t.regs.flagsAtError e info, phase := .idle }

/-- COMPLETION (49_host_commands.md R813): the results are set, and `DONE` with `BUSY` cleared in the same step. -/
def State.complete (s : State) (len : Word) (form fallback : Bool) : State :=
  if s.tainted then s.endSpoiled
  else { s with regs := s.regs.flagsAtDone len form fallback, phase := .idle }

/-- The latching of the operand registers at command start, with the `OP` and `LEVEL` just stored (10_state.md R118). -/
def Regs.latch (r : Regs) : Latched :=
  { op := r.cmdOp, level := r.cmdLevel, src := r.srcAddr, n := r.srcLen, dst := r.dstAddr, cap := r.dstCap }

/-- Steps 1 to 4 of a command start (R800): store `OP` and `LEVEL`, latch, clear, set `BUSY`. Step 5, the command's work,
is the engine's next step. -/
def State.startCommand (s : State) (v : Word) : State :=
  let r : Regs := { s.regs with cmdOp := v.extractLsb' 0 3, cmdLevel := v.extractLsb' 4 2 }
  { s with regs := r.flagsAtStart, lat := r.latch, phase := .start, tainted := false }

/-- A reset now would abandon a command that writes a destination: every byte of it is then `any value` (R952,
93_implementation_defined.md U2; log entry 5). -/
def State.dstAtRisk (s : State) : Bool := s.regs.busy && writesDst s.lat.op

/-- RESET (70_reset_and_hazards.md R950 to R952): every register takes its reset value, a command in progress is
abandoned without DONE or ERR, and host memory is not changed, except that a destination being written is unspecified. -/
def State.resetNow (s : State) : State :=
  let t := if s.dstAtRisk then s.forgetDst else s
  { State.reset with mem := t.mem, fresh := t.fresh, inputs := s.inputs, hostData := s.hostData }

end Sys2Proof.Machine
end

