-- ==== Sys2Proof/Machine/BitWriter.lean ====
section
/-! DEFINITION. The bit writer (45_bit_writer.md R600 to R606): fields packed least significant bit first into 32-bit
words, and the NoSpace signal. `Work` is the part of the state that the compressor's operations read and write. -/

namespace Sys2Proof.Machine

/-- The state of the compressor's units (10_state.md R120 to R123, R125, R126) and host memory. -/
structure Work where
  mf : MatchFinder
  buf : SymBuffer
  tab : CodeTables
  cache : Cache
  snap : Cache
  wr : Writer
  mem : Memory
deriving DecidableEq, Repr

/-- The result of a compressor operation: it goes on, or the bit writer signals NoSpace (R602). -/
inductive Run where
  | ok (w : Work)
  | noSpace (w : Work)
deriving DecidableEq, Repr

/-- NoSpace ends every operation it passes through (R602, 44_block_encoder.md R552). -/
def Run.andThen (r : Run) (f : Work → Run) : Run :=
  match r with
  | .ok w => f w
  | .noSpace w => .noSpace w

/-- The work a run ends with, either way. -/
def Run.work : Run → Work
  | .ok w => w
  | .noSpace w => w

/-- `wwords` as every rule reads it: the 32-bit unsigned position of 10_state.md R103, which the 30-bit register of R600
holds, since `4 · wwords ≤ WCAP` (R602) keeps the two bits above at 0 (log entry 24). -/
def Writer.wwords (wr : Writer) : Word := wr.words.zeroExtend 32

/-- `EmitWord(w)` (R602): NoSpace when the word would end past `WCAP`; no memory write in measure mode (R605). -/
def emitWord (v : Word) (w : Work) : Run :=
  if w.wr.cap.toNat < 4 * (w.wr.wwords.toNat + 1) then .noSpace w
  else
    let mem :=
      match w.wr.mode with
      | .write => w.mem.writeWord (w.wr.base + BitVec.ofNat 32 (4 * w.wr.wwords.toNat)) v
      | .measure => w.mem
    .ok { w with mem := mem, wr := { w.wr with words := w.wr.words + 1 } }

/-- `PutBits(v, k)` (R601), `k ≤ 32`: `t = WACC | v << WK` on 64 bits, and one word emitted when 32 bits are pending. If
the emit signals NoSpace the writer is left as it was. -/
def putBits (v k : Nat) (w : Work) : Run :=
  let t : BitVec 64 := w.wr.acc.zeroExtend 64 ||| (BitVec.ofNat 64 v <<< w.wr.k.toNat)
  let k2 := w.wr.k.toNat + k
  if 32 ≤ k2 then
    (emitWord (t.extractLsb' 0 32) w).andThen (fun w' =>
      .ok { w' with wr := { w'.wr with acc := t.extractLsb' 32 32, k := BitVec.ofNat 5 (k2 - 32) } })
  else .ok { w with wr := { w.wr with acc := t.extractLsb' 0 32, k := BitVec.ofNat 5 k2 } }

/-- Successive `PutBits` calls; a field is a pair (value, width). -/
def putFields : List (Nat × Nat) → Work → Run
  | [], w => .ok w
  | f :: rest, w => (putBits f.1 f.2 w).andThen (putFields rest)

/-- `AlignWriter()` (R603): zero bits to the next byte boundary of the stream. -/
def alignWriter (w : Work) : Run := putBits 0 ((8 - w.wr.k.toNat % 8) % 8) w

/-- `FinalFlush()` (R604): the last partial word is written whole. -/
def finalFlush (w : Work) : Run :=
  if 0 < w.wr.k.toNat then
    (emitWord w.wr.acc w).andThen (fun w' => .ok { w' with wr := { w'.wr with acc := 0, k := 0 } })
  else .ok w

/-- The stream bit index of the next bit written, `32 · wwords + WK` (R606). -/
def Writer.position (wr : Writer) : Nat := 32 * wr.wwords.toNat + wr.k.toNat

end Sys2Proof.Machine
end

