-- ==== Sys2Proof/Machine/Huffman.lean ====
section
/-! DEFINITION. The Huffman builder (43_huffman_builder.md): length-limited code lengths from frequencies (R500 to
R506), canonical codes (R507) and their bit reversal (R508). -/

namespace Sys2Proof.Machine

/-- The used symbols `U` of a frequency array, ascending, as pairs (symbol, frequency); `s` is the first symbol's
number (R500). -/
def usedFrom : Nat → List Nat → List (Nat × Nat)
  | _, [] => []
  | s, f :: rest => if 0 < f then (s, f) :: usedFrom (s + 1) rest else usedFrom (s + 1) rest

/-- `PadLengths` (R501): two 1-bit codes. -/
def padLengths (used : List (Nat × Nat)) (n : Nat) : List Nat :=
  match used with
  | [] => (List.range n).map (fun s => if s = 0 ∨ s = 1 then 1 else 0)
  | (u, _) :: _ => (List.range n).map (fun s => if s = u ∨ s = (if u = 0 then 1 else 0) then 1 else 0)

/-- A node of the construction of R502: its frequency, height and id, and the leaves below it with the number of edges
down to each. -/
structure Live where
  freq : Nat
  height : Nat
  id : Nat
  leaves : List (Nat × Nat)
deriving DecidableEq, Repr

/-- The key `(f, h, id)` in lexicographic order (R502). -/
def Live.before (a b : Live) : Bool :=
  decide (a.freq < b.freq ∨ (a.freq = b.freq ∧ (a.height < b.height ∨ (a.height = b.height ∧ a.id < b.id))))

/-- The node with the least key of a non-empty list given as head and tail, and the others in order (R502). -/
def takeLeast : Live → List Live → Live × List Live
  | a, [] => (a, [])
  | a, b :: rest =>
    let (least, others) := takeLeast b rest
    if a.before least then (a, b :: rest) else (least, a :: others)

/-- A scratch node of 10_state.md R123. What `child0` and `child1` hold the spec leaves open (R123 gives them no width or
content, R502 gives a leaf no children): here the 10-bit ids of the two nodes merged, and 0 and 0 for a leaf. DESIGN CHOICE,
log entry 18. -/
def scratchNode (x : Live) (child0 child1 : Nat) : Node :=
  { freq := BitVec.ofNat 14 x.freq, height := BitVec.ofNat 5 x.height, id := BitVec.ofNat 10 x.id,
    child0 := BitVec.ofNat 10 child0, child1 := BitVec.ofNat 10 child1 }

/-- The merge of two nodes into the internal node `id` (R502): one more edge above every leaf (R503). -/
def mergeLive (a b : Live) (id : Nat) : Live :=
  { freq := a.freq + b.freq, height := max a.height b.height + 1, id := id,
    leaves := (a.leaves ++ b.leaves).map (fun l => (l.1, l.2 + 1)) }

/-- `TreeDepths` (R502): merge the two least nodes until one is left. The first argument bounds the merges; the second is
the next internal node's id. -/
def mergeAll : Nat → Nat → List Live → List Node → List Live × List Node
  | 0, _, live, nodes => (live, nodes)
  | fuel + 1, id, live, nodes =>
    match live with
    | [] => (live, nodes)
    | [_] => (live, nodes)
    | a :: b :: rest =>
      let (x, others) := takeLeast a (b :: rest)
      match others with
      | [] => (live, nodes)
      | c :: more =>
        let (y, remaining) := takeLeast c more
        let z := mergeLive x y id
        mergeAll fuel (id + 1) (remaining ++ [z]) (nodes ++ [scratchNode z x.id y.id])

/-- The leaves of R502. -/
def liveLeaves (used : List (Nat × Nat)) : List Live :=
  used.map (fun u => { freq := u.2, height := 0, id := u.1, leaves := [(u.1, 0)] })

/-- The value paired with a symbol, 0 when there is none. -/
def assocGet : List (Nat × Nat) → Nat → Nat
  | [], _ => 0
  | (t, v) :: rest, s => if s = t then v else assocGet rest s

/-- The leaf depths of R503 as pairs (symbol, depth), and the scratch nodes. -/
def treeDepths (used : List (Nat × Nat)) (n : Nat) : List (Nat × Nat) × List Node :=
  let leaves := liveLeaves used
  let (live, nodes) := mergeAll used.length n leaves (leaves.map (fun x => scratchNode x 0 0))
  match live with
  | [] => ([], nodes)
  | root :: _ => (root.leaves, nodes)

/-- How many entries of a list equal `b`. -/
def countEq (b : Nat) : List Nat → Nat
  | [] => 0
  | x :: rest => (if x = b then 1 else 0) + countEq b rest

/-- The length histogram `blc[0 .. lmax]` of a list of lengths, `blc[0]` taken as 0 (R504, R507). -/
def histogram (lens : List Nat) (lmax : Nat) : List Nat :=
  (List.range (lmax + 1)).map (fun b => if b = 0 then 0 else countEq b lens)

/-- `Σ blc[b] · 2^(lmax - b)` for `b` in 1..k (R504). -/
def kraftUpTo (blc : List Nat) (lmax : Nat) : Nat → Nat
  | 0 => 0
  | b + 1 => kraftUpTo blc lmax b + blc.getD (b + 1) 0 * 2 ^ (lmax - (b + 1))

/-- The Kraft sum of a length set in units of `2^-lmax` (R504, R510, 47_block_decoder.md R709). -/
def kraftSum (lens : List Nat) (lmax : Nat) : Nat := kraftUpTo (histogram lens lmax) lmax lmax

/-- The deepest populated length at most `b` (R505). -/
def deepest (blc : List Nat) : Nat → Nat
  | 0 => 0
  | b + 1 => if blc.getD (b + 1) 0 = 0 then deepest blc b else b + 1

/-- One entry of a list changed. -/
def modifyAt (f : Nat → Nat) : Nat → List Nat → List Nat
  | _, [] => []
  | 0, x :: rest => f x :: rest
  | i + 1, x :: rest => x :: modifyAt f i rest

/-- One correction step of R505 (90_conflicts.md C2): the maximum length's count drops by 1. -/
def correctOnce (lmax : Nat) (blc : List Nat) : List Nat :=
  let b := deepest blc (lmax - 1)
  modifyAt (fun c => c - 1) lmax (modifyAt (fun c => c + 2) (b + 1) (modifyAt (fun c => c - 1) b blc))

/-- `E` correction steps (R505). -/
def correctTimes (lmax : Nat) : Nat → List Nat → List Nat
  | 0, blc => blc
  | e + 1, blc => correctTimes lmax e (correctOnce lmax blc)

/-- The order of R506: depth descending, frequency ascending, symbol ascending. A leaf is (depth, frequency, symbol). -/
def leafBefore (a b : Nat × Nat × Nat) : Bool :=
  decide (b.1 < a.1 ∨ (a.1 = b.1 ∧ (a.2.1 < b.2.1 ∨ (a.2.1 = b.2.1 ∧ a.2.2 < b.2.2))))

/-- Insertion into a list in the order of R506. -/
def insertLeaf (a : Nat × Nat × Nat) : List (Nat × Nat × Nat) → List (Nat × Nat × Nat)
  | [] => [a]
  | b :: rest => if leafBefore a b then a :: b :: rest else b :: insertLeaf a rest

/-- The leaves in the order of R506. -/
def sortLeaves : List (Nat × Nat × Nat) → List (Nat × Nat × Nat)
  | [] => []
  | a :: rest => insertLeaf a (sortLeaves rest)

/-- The lengths of a histogram from `b` down to 1, each as often as it counts (R506). -/
def lengthsDown (blc : List Nat) : Nat → List Nat
  | 0 => []
  | b + 1 => List.replicate (blc.getD (b + 1) 0) (b + 1) ++ lengthsDown blc b

/-- `LimitLengths` (R504 to R506): pairs (symbol, length) and the corrected histogram. -/
def limitLengths (depths used : List (Nat × Nat)) (lmax : Nat) : List (Nat × Nat) × List Nat :=
  let clamped := histogram (depths.map (fun d => min d.2 lmax)) lmax
  let excess := kraftUpTo clamped lmax lmax - 2 ^ lmax
  let blc := correctTimes lmax excess clamped
  let order := sortLeaves (used.map (fun u => (assocGet depths u.1, u.2, u.1)))
  ((order.map (fun a => a.2.2)).zip (lengthsDown blc lmax), blc)

/-- The outputs of the builder for one alphabet (R509), with the scratch nodes it leaves (10_state.md R123). -/
structure Built where
  lens : List Nat
  blc : List Nat
  nodes : List Node
deriving DecidableEq, Repr

/-- `BuildLengths(freq, N, Lmax)` (R500). -/
def buildLengths (freq : List Nat) (n lmax : Nat) : Built :=
  let used := usedFrom 0 freq
  if used.length < 2 then
    let lens := padLengths used n
    { lens := lens, blc := histogram lens lmax, nodes := [] }
  else
    let (depths, nodes) := treeDepths used n
    if depths.all (fun d => decide (d.2 ≤ lmax)) then
      let lens := (List.range n).map (assocGet depths)
      { lens := lens, blc := histogram lens lmax, nodes := nodes }
    else
      let (limited, blc) := limitLengths depths used lmax
      { lens := (List.range n).map (assocGet limited), blc := blc, nodes := nodes }

/-- `next[b]` before any code is given out: `next[1] = 0`, `next[b] = (next[b-1] + blc[b-1]) << 1` (R507). -/
def firstCode (blc : List Nat) : Nat → Nat
  | 0 => 0
  | b + 1 => (firstCode blc b + blc.getD b 0) * 2

/-- The codes of R507 given out in ascending symbol order. -/
def assignCodes : List Nat → List Nat → List Nat
  | [], _ => []
  | l :: rest, next =>
    if l = 0 then 0 :: assignCodes rest next
    else next.getD l 0 :: assignCodes rest (modifyAt (fun c => c + 1) l next)

/-- `Canon(len, N, Lmax)` (R507): the canonical code values, 0 for an unused symbol. -/
def canon (lens : List Nat) (lmax : Nat) : List Nat :=
  assignCodes lens ((List.range (lmax + 1)).map (firstCode (histogram lens lmax)))

/-- `rev_n(c)`: bit `i` of the result is bit `n - 1 - i` of `c` (00_scope.md R9). -/
def revBits : Nat → Nat → Nat
  | 0, _ => 0
  | n + 1, c => (c % 2) * 2 ^ n + revBits n (c / 2)

/-- `rcode[s] = rev_{len[s]}(code[s])` (R508). -/
def reversedCodes (lens : List Nat) (lmax : Nat) : List Nat :=
  List.zipWith revBits lens (canon lens lmax)

end Sys2Proof.Machine
end

