-- ==== Sys2Proof/Machine/SymbolMap.lean ====
section
/-! DEFINITION. The maps from match lengths and distances to symbols and extra bits, and the repeat-distance cache on
both sides (42_symbol_mapping.md R450 to R463). -/

namespace Sys2Proof.Machine

/-- The largest index `k < bound` whose base is at most `v`, not below `low`. -/
def bandBelow (base : Nat → Nat) (low v : Nat) : Nat → Nat
  | 0 => low
  | k + 1 => if k ≤ low then low else if base k ≤ v then k else bandBelow base low v k

/-- `LenCode(L)`: the pair `(i, x)` with `i` the largest code with `LEN_BASE[i] ≤ L` and `x = L - LEN_BASE[i]` (R451). -/
def lenCode (len : Nat) : Nat × Nat :=
  let i := bandBelow lenBase 0 len 64
  (i, len - lenBase i)

/-- `DistCode(d)`: the pair `(c, x)` with `c` the largest code in 3..63 with `DIST_BASE[c] ≤ d` and
`x = d - DIST_BASE[c]` (R456). -/
def distCode (d : Nat) : Nat × Nat :=
  let c := bandBelow distBase 3 d 64
  (c, d - distBase c)

/-- A new distance enters the cache at `R0` and `R2` drops out (R460, R461). -/
def Cache.push (c : Cache) (d : Nat) : Cache := { r0 := BitVec.ofNat 20 d, r1 := c.r0, r2 := c.r1 }

/-- `(R0, R1) <- (R1, R0)`, the use of cache code 1 (R460, R461). -/
def Cache.swap (c : Cache) : Cache := { r0 := c.r1, r1 := c.r0, r2 := c.r2 }

/-- `(R0, R1, R2) <- (R2, R0, R1)`, the use of cache code 2 (R460, R461). -/
def Cache.rotate (c : Cache) : Cache := { r0 := c.r2, r1 := c.r0, r2 := c.r1 }

/-- `MapDist(d)`: the distance code, its extra value and the cache after it (R460). -/
def mapDist (c : Cache) (d : Nat) : (Nat × Nat) × Cache :=
  if d = c.r0.toNat then ((0, 0), c)
  else if d = c.r1.toNat then ((1, 0), c.swap)
  else if d = c.r2.toNat then ((2, 0), c.rotate)
  else (distCode d, c.push d)

/-- The cache entry of cache code 0, 1 or 2 (R461). -/
def Cache.entry (c : Cache) (code : Nat) : Nat :=
  if code = 0 then c.r0.toNat else if code = 1 then c.r1.toNat else c.r2.toNat

/-- The cache after the use of cache code 0, 1 or 2 (R461). -/
def Cache.promote (c : Cache) (code : Nat) : Cache :=
  if code = 0 then c else if code = 1 then c.swap else c.rotate

/-- `UnmapDist(c)` with the extra value already read: the distance and the cache after it, or `none` for a cache code
that names an empty entry (R461, 48_symbol_decoder_and_copy.md R756, R757). -/
def unmapDist (c : Cache) (code x : Nat) : Option (Nat × Cache) :=
  if code ≤ 2 then
    if c.entry code = 0 then none else some (c.entry code, c.promote code)
  else some (distBase code + x, c.push (distBase code + x))

end Sys2Proof.Machine
end

