-- ==== Sys2Proof/Machine/BlockEncoder.lean ====
section
/-! DEFINITION. The symbol buffer and the block encoder (44_block_encoder.md R550 to R564). -/

namespace Sys2Proof.Machine

/-- What a COMPRESS or MEASURE reads and never changes: `n` and the latched source bytes `src[i]` (00_scope.md R9; log
entry 16). -/
structure Source where
  n : Nat
  src : Nat → Byte

/-- One more occurrence of a symbol in a frequency table (R550, R551). -/
def bumpFreq : List (BitVec 14) → Nat → List (BitVec 14)
  | [], _ => []
  | f :: rest, 0 => (f + 1) :: rest
  | f :: rest, i + 1 => f :: bumpFreq rest i

/-- An item `(t, e, x)` of the run-length coding (R554). -/
structure Item where
  t : Nat
  e : Nat
  x : Nat
deriving DecidableEq, Repr

/-- The item that repeats the previous length `t` times, `2 ≤ t ≤ 144` (R554). -/
def repeatItem (t : Nat) : Item :=
  if t = 2 then { t := 15, e := 0, x := 0 }
  else if t ≤ 4 then { t := 16, e := 1, x := t - 3 }
  else if t ≤ 8 then { t := 17, e := 2, x := t - 5 }
  else if t ≤ 16 then { t := 18, e := 3, x := t - 9 }
  else { t := 19, e := 7, x := t - 17 }

/-- The inner loop of R554: repeat items for a run of `r` values after its literal, and how many values are left over
(0 or 1). The first argument bounds the items. -/
def repeatItems : Nat → Nat → List Item × Nat
  | 0, r => ([], r)
  | fuel + 1, r =>
    if 2 ≤ r then
      let (items, left) := repeatItems fuel (r - min r 144)
      (repeatItem (min r 144) :: items, left)
    else ([], r)

/-- How many values at the front of a list equal `v`. -/
def runLength (v : Nat) : List Nat → Nat
  | [] => 0
  | x :: rest => if x = v then runLength v rest + 1 else 0

/-- `RLE(seq)` (R554); the first argument bounds the runs. A left-over single value becomes the next literal. -/
def rleFrom : Nat → List Nat → List Item
  | 0, _ => []
  | _ + 1, [] => []
  | fuel + 1, v :: rest =>
    let r := runLength v rest
    let (items, left) := repeatItems r r
    { t := v, e := 0, x := 0 } :: items ++ rleFrom fuel (rest.drop (r - left))

/-- `RLE(seq)` (R554). -/
def rle (seq : List Nat) : List Item := rleFrom seq.length seq

/-- One past the last symbol with a nonzero length, 0 when there is none (R553). -/
def usedCount : List Nat → Nat
  | [] => 0
  | l :: rest =>
    let k := usedCount rest
    if 0 < k then k + 1 else if 0 < l then 1 else 0

/-- `litCount` of R553. -/
def litCountOf (lens : List Nat) : Nat := max 257 (usedCount lens)

/-- `distCount` of R553. -/
def distCountOf (lens : List Nat) : Nat := max 1 (usedCount lens)

/-- `ClFreq` (R555): how many items of both sequences have each code-length symbol. -/
def clFreqOf (items : List Item) : List Nat :=
  (List.range Config.clN).map (fun t => countEq t (items.map (fun i => i.t)))

/-- An item as `LITRLE` and `DISTRLE` store it (10_state.md R123). -/
def Item.store (i : Item) : RleItem :=
  { sym := BitVec.ofNat 5 i.t, nextra := BitVec.ofNat 3 i.e, extra := BitVec.ofNat 7 i.x }

/-- The tables of one block, built from its frequencies (R552): code lengths, counts, items and reversed codes are
written to the registers of 10_state.md R123; the scratch nodes and `BLCOUNT` keep what the builder's
last runs left (the code-length run, and above its longest length the distance run). -/
def buildTables (w : Work) : Work :=
  let ll := buildLengths (w.buf.litFreq.map BitVec.toNat) Config.litN Config.litMaxLen
  let dl := buildLengths (w.buf.distFreq.map BitVec.toNat) Config.distN Config.distMaxLen
  let r1 := rle (ll.lens.take (litCountOf ll.lens))
  let r2 := rle (dl.lens.take (distCountOf dl.lens))
  let cf := clFreqOf (r1 ++ r2)
  let cl := buildLengths cf Config.clN Config.clMaxLen
  { w with
    buf := { w.buf with clFreq := cf.map (BitVec.ofNat 9) }
    tab :=
      { litLen := ll.lens.map (BitVec.ofNat 4)
        litCode := (reversedCodes ll.lens Config.litMaxLen).map (BitVec.ofNat 14)
        distLen := dl.lens.map (BitVec.ofNat 4)
        distCode := (reversedCodes dl.lens Config.distMaxLen).map (BitVec.ofNat 14)
        clLen := cl.lens.map (BitVec.ofNat 3)
        clCode := (reversedCodes cl.lens Config.clMaxLen).map (BitVec.ofNat 7)
        litRle := r1.map Item.store
        distRle := r2.map Item.store
        nodes := cl.nodes
        blcount := (List.range 15).map
          (fun b => if b ≤ Config.clMaxLen then cl.blc.getD b 0 else dl.blc.getD b 0) } }

/-- The entry of a table of bit vectors, 0 outside it. -/
def tableNat {n : Nat} (t : List (BitVec n)) (i : Nat) : Nat := (t.getD i 0).toNat

/-- The two fields of a run-length item: its reversed code and its extra bits (R561). -/
def itemFields (tab : CodeTables) (i : RleItem) : List (Nat × Nat) :=
  [(tableNat tab.clCode i.sym.toNat, tableNat tab.clLen i.sym.toNat), (i.extra.toNat, i.nextra.toNat)]

/-- The fields of one buffered symbol (R562). -/
def symFields (tab : CodeTables) (y : Sym) : List (Nat × Nat) :=
  match y with
  | .literal b => [(tableNat tab.litCode b.toNat, tableNat tab.litLen b.toNat)]
  | .copy lcode lextra dcode dextra =>
    let s := 256 + lcode.toNat
    let d := dcode.toNat
    [(tableNat tab.litCode s, tableNat tab.litLen s), (lextra.toNat, lenExtra lcode.toNat),
     (tableNat tab.distCode d, tableNat tab.distLen d), (dextra.toNat, if 3 ≤ d then distExtra d else 0)]

/-- The code lengths of a table as numbers. -/
def lensOf {n : Nat} (t : List (BitVec n)) : List Nat := t.map BitVec.toNat

/-- The fields of the table part of a compressed block (R561). -/
def headFields (tab : CodeTables) : List (Nat × Nat) :=
  [(1, 1)] ++ tab.clLen.map (fun l => (l.toNat, 3)) ++ [(litCountOf (lensOf tab.litLen) - 257, 6)] ++
    tab.litRle.flatMap (itemFields tab) ++ [(distCountOf (lensOf tab.distLen) - 1, 6)] ++
    tab.distRle.flatMap (itemFields tab)

/-- The fields of a compressed block (R561, R562). -/
def compressedFields (w : Work) : List (Nat × Nat) :=
  headFields w.tab ++ (w.buf.symbuf.take w.buf.nsym.toNat).flatMap (symFields w.tab)

/-- Σ (CL[t] + e) over the items of a sequence (R556). -/
def itemsCost (tab : CodeTables) (items : List RleItem) : Nat :=
  (items.map (fun i => tableNat tab.clLen i.sym.toNat + i.nextra.toNat)).sum

/-- `CompressedCost` (R556). -/
def compressedCost (w : Work) : Nat :=
  1 + 3 * 20 + 6 + itemsCost w.tab w.tab.litRle + 6 + itemsCost w.tab w.tab.distRle +
    ((List.range Config.litN).map (fun s =>
      tableNat w.buf.litFreq s * (tableNat w.tab.litLen s + (if 256 ≤ s then lenExtra (s - 256) else 0)))).sum +
    ((List.range Config.distN).map (fun c =>
      tableNat w.buf.distFreq c * (tableNat w.tab.distLen c + (if 3 ≤ c then distExtra c else 0)))).sum

/-- `StoredCost` (R558). -/
def storedCost (w : Work) : Nat :=
  1 + 8 + (8 - (w.wr.position + 9) % 8) % 8 + 8 * w.buf.span.toNat

/-- The choice of R559: stored if and only if the span fits a stored block and the stored cost is smaller. -/
def choosesStored (w : Work) : Bool :=
  decide (w.buf.span.toNat ≤ Config.blockSyms + Config.storedExtraMax ∧ storedCost w < compressedCost w)

/-- `EmitStored()` (R560). -/
def emitStored (e : Source) (w : Work) : Run :=
  (putFields [(0, 1), (w.buf.span.toNat - Config.blockSyms, 8)] w).andThen (fun w1 =>
    (alignWriter w1).andThen (fun w2 =>
      putFields ((List.range w.buf.span.toNat).map
        (fun j => ((e.src (w.buf.blockStart.toNat + j)).toNat, 8))) w2))

/-- `EmitCompressed()` (R561, R562). -/
def emitCompressed (w : Work) : Run := putFields (compressedFields w) w

/-- The bookkeeping after a block (R552, R564): the next block starts where this one ends, with empty frequency tables. -/
def startBlock (w : Work) : Work :=
  { w with buf := { w.buf with
      blockStart := w.buf.blockStart + w.buf.span, nsym := 0, span := 0, symbuf := [],
      litFreq := List.replicate Config.litN 0, distFreq := List.replicate Config.distN 0 } }

/-- `Flush()` (R552), with the cache rolled back after a stored block and checkpointed after a compressed one (R563,
42_symbol_mapping.md R462). -/
def flush (e : Source) (w : Work) : Run :=
  let w1 := buildTables w
  if choosesStored w1 then
    (emitStored e w1).andThen (fun w2 => .ok (startBlock { w2 with cache := w2.snap }))
  else
    (emitCompressed w1).andThen (fun w2 => .ok (startBlock { w2 with snap := w2.cache }))

/-- The buffered symbols after one more is written at index `nsym` (R550, R551). -/
def SymBuffer.push (b : SymBuffer) (y : Sym) : SymBuffer :=
  { b with symbuf := b.symbuf.take b.nsym.toNat ++ [y], nsym := b.nsym + 1 }

/-- A full buffer is flushed at once (R550, R551). -/
def flushIfFull (e : Source) (w : Work) : Run :=
  if w.buf.nsym.toNat = Config.blockSyms then flush e w else .ok w

/-- `PutChar(b)` (R550). -/
def putChar (e : Source) (b : Byte) (w : Work) : Run :=
  let b1 := w.buf.push (.literal b)
  flushIfFull e { w with buf := { b1 with span := b1.span + 1, litFreq := bumpFreq b1.litFreq b.toNat } }

/-- `PutLenDist(L, d)` (R551); the cache is updated when the symbol is buffered. -/
def putLenDist (e : Source) (len d : Nat) (w : Work) : Run :=
  let (i, x) := lenCode len
  let ((c, y), cache) := mapDist w.cache d
  let b1 := w.buf.push (.copy (BitVec.ofNat 6 i) (BitVec.ofNat 14 x) (BitVec.ofNat 6 c) (BitVec.ofNat 17 y))
  flushIfFull e { w with
    cache := cache
    buf := { b1 with span := b1.span + BitVec.ofNat 32 len
                     litFreq := bumpFreq b1.litFreq (256 + i)
                     distFreq := bumpFreq b1.distFreq c } }

/-- `FlushFinal()` (R557). -/
def flushFinal (e : Source) (w : Work) : Run :=
  if 0 < w.buf.nsym.toNat then flush e w else .ok w

end Sys2Proof.Machine
end

