-- ==== Sys2Proof/Machine/MatchFinder.lean ====
section
/-! DEFINITION. The match finder (41_match_finder.md R400 to R413): hashing and insertion, the chain walk, and the scan
with lazy evaluation. -/

namespace Sys2Proof.Machine

/-- An entry of `HEAD` or `CHAIN`; an unlisted one is {0, 0}. -/
def linkGet : List (Nat × Link) → Nat → Link
  | [], _ => { valid := false, pos := 0 }
  | (j, l) :: rest, i => if i = j then l else linkGet rest i

/-- A table after one entry is written, indexes still rising. -/
def linkSet : List (Nat × Link) → Nat → Link → List (Nat × Link)
  | [], i, l => [(i, l)]
  | (j, k) :: rest, i, l =>
    if i < j then (i, l) :: (j, k) :: rest
    else if i = j then (i, l) :: rest
    else (j, k) :: linkSet rest i l

/-- `Hash(q)` (R401). -/
def hashAt (e : Source) (pr : Config.Profile) (q : Nat) : Nat :=
  ((((e.src q).toNat <<< (2 * pr.hashShift)) ^^^ ((e.src (q + 1)).toNat <<< pr.hashShift)) ^^^ (e.src (q + 2)).toNat)
    &&& pr.hashMask

/-- `Insert(q)` (R402). -/
def insertPos (e : Source) (q : Nat) (w : Work) : Work :=
  let pr := w.mf.profile
  if q + 3 ≤ e.n then
    let h := hashAt e pr q
    { w with mf := { w.mf with
        chain := linkSet w.mf.chain (q &&& pr.chainMask) (linkGet w.mf.head h)
        head := linkSet w.mf.head h { valid := true, pos := BitVec.ofNat 32 q }
        ins := BitVec.ofNat 32 (q + 1) } }
  else { w with mf := { w.mf with ins := BitVec.ofNat 32 (q + 1) } }

/-- `MatchLen(c, q, limit)` (R406), bytewise from length `len` on; the first argument is `limit - len`. -/
def matchLenFrom (e : Source) (c q : Nat) : Nat → Nat → Nat
  | 0, len => len
  | k + 1, len => if e.src (c + len) = e.src (q + len) then matchLenFrom e c q k (len + 1) else len

/-- `MatchLen(c, q, limit)` (R406). -/
def matchLen (e : Source) (c q limit : Nat) : Nat := matchLenFrom e c q limit 0

/-- `Accept(L, d)`, the near-match rule (R408). -/
def accepts (len d : Nat) : Bool :=
  decide (5 ≤ len ∨ (len = 4 ∧ d ≤ Config.near4MaxDist) ∨ (len = 3 ∧ d ≤ Config.near3MaxDist))

/-- `bitlen(x)` (00_scope.md R9); the first argument bounds the bits. -/
def bitLenFrom : Nat → Nat → Nat
  | 0, _ => 0
  | k + 1, x => if x = 0 then 0 else bitLenFrom k (x / 2) + 1

/-- `bitlen(x)` of a 32-bit number (00_scope.md R9). -/
def bitLen (x : Nat) : Nat := bitLenFrom 32 x

/-- `Better(L, d, best)`, the tie-break (R409). -/
def better (len d : Nat) : Option (Nat × Nat) → Bool
  | none => true
  | some (lb, db) =>
    if len ≤ lb then false
    else if lb + 3 ≤ len then true
    else if len = lb + 1 then decide (bitLen d ≤ bitLen db + 1)
    else decide (bitLen d ≤ bitLen db + 4)

/-- The chain walk of R403, with the stops of R404 and R405; the first argument is how many candidates `maxChainLength`
still allows. -/
def walk (e : Source) (pr : Config.Profile) (chain : List (Nat × Link)) (q limit : Nat) :
    Nat → Link → Option (Nat × Nat) → Option (Nat × Nat)
  | 0, _, best => best
  | k + 1, cand, best =>
    if cand.valid = false then best
    else
      let c := cand.pos.toNat
      let d := q - c
      let next := fun b =>
        if pr.chainCapacity ≤ d then b
        else walk e pr chain q limit k (linkGet chain (c &&& pr.chainMask)) b
      if Config.window < d then best
      else if d < Config.minDist then next best
      else
        let len := matchLen e c q limit
        if accepts len d && better len d best then
          if len = limit then some (len, d) else next (some (len, d))
        else next best

/-- `Find(q)` (R403): the best match at `q`, and `Insert(q)`. -/
def find (e : Source) (q : Nat) (w : Work) : Option (Nat × Nat) × Work :=
  if e.n < q + 3 then (none, insertPos e q w)
  else
    let pr := w.mf.profile
    let head := linkGet w.mf.head (hashAt e pr q)
    let w1 := insertPos e q w
    (walk e pr w1.mf.chain q (min Config.maxMatch (e.n - q)) pr.maxChainLength head none, w1)

/-- The current-match register for a search result (10_state.md R121). What `len` and `dist` hold when there is no match the
spec leaves open (R400 says only `cur <- none`): here 0. DESIGN CHOICE, log entry 25. -/
def curOf : Option (Nat × Nat) → Cur
  | none => { present := false, len := 0, dist := 0 }
  | some (len, d) => { present := true, len := BitVec.ofNat 15 len, dist := BitVec.ofNat 20 d }

/-- `cur <- Find(q)`. -/
def findCur (e : Source) (q : Nat) (w : Work) : Work :=
  let (best, w1) := find e q w
  { w1 with mf := { w1.mf with cur := curOf best } }

/-- `p <- p + k`. -/
def advance (k : Nat) (w : Work) : Work :=
  { w with mf := { w.mf with p := w.mf.p + BitVec.ofNat 32 k } }

/-- `while ins < p + L: Insert(ins)` (R410); the first argument bounds the loop. -/
def insertUpTo (e : Source) (stop : Nat) : Nat → Work → Work
  | 0, w => w
  | k + 1, w =>
    if w.mf.ins.toNat < stop then insertUpTo e stop k (insertPos e w.mf.ins.toNat w) else w

/-- `LazyProbe()` (R411); the first argument bounds the loop, which advances `p` each time round. -/
def lazyProbe (e : Source) : Nat → Work → Run
  | 0, w => .ok w
  | k + 1, w =>
    let p := w.mf.p.toNat
    if w.mf.cur.len.toNat < Config.lazyThreshold ∧ p + 1 < e.n then
      let (nxt, w1) := find e (p + 1) w
      match nxt with
      | none => .ok w1
      | some (len, d) =>
        if w.mf.cur.len.toNat < len then
          (putChar e (e.src p) w1).andThen (fun w2 =>
            let w3 := advance 1 w2
            lazyProbe e k { w3 with mf := { w3.mf with cur := curOf (some (len, d)) } })
        else .ok w1
    else .ok w

/-- `if p < n: cur <- Find(p)` (R410). -/
def findNext (e : Source) (w : Work) : Work :=
  if w.mf.p.toNat < e.n then findCur e w.mf.p.toNat w else w

/-- One iteration of the loop of `Scan` (R410). -/
def scanOnce (e : Source) (w : Work) : Run :=
  if w.mf.cur.present = false then
    (putChar e (e.src w.mf.p.toNat) w).andThen (fun w1 => .ok (findNext e (advance 1 w1)))
  else
    (lazyProbe e e.n w).andThen (fun w1 =>
      let len := w1.mf.cur.len.toNat
      (putLenDist e len w1.mf.cur.dist.toNat w1).andThen (fun w2 =>
        .ok (findNext e (advance len (insertUpTo e (w2.mf.p.toNat + len) len w2)))))

/-- The loop of `Scan` (R410); the first argument bounds the iterations, each of which advances `p` (70_reset_and_hazards.md
R959). -/
def scanLoop (e : Source) : Nat → Work → Run
  | 0, w => .ok w
  | k + 1, w =>
    if w.mf.p.toNat < e.n then (scanOnce e w).andThen (scanLoop e k) else .ok w

/-- The initialisation of R400. -/
def initFinder (pr : Config.Profile) (mf : MatchFinder) : MatchFinder :=
  { mf with
    head := mf.head.map (fun h => if h.1 ≤ pr.hashMask then (h.1, { h.2 with valid := false }) else h)
    p := 0, ins := 0, cur := curOf none, profile := pr }

/-- `Scan()` (R410) after its initialisation. -/
def scan (e : Source) (w : Work) : Run :=
  (scanLoop e e.n (findCur e 0 w)).andThen (flushFinal e)

end Sys2Proof.Machine
end

