-- ==== Sys2Proof/Machine/BitReader.lean ====
section
/-! DEFINITION. The bit reader (46_bit_reader.md R650 to R655) and the Huffman walk over it
(48_symbol_decoder_and_copy.md R750 to R753). -/

namespace Sys2Proof.Machine

/-- Why a decoding operation does not answer: it raises an error (60_exceptions.md R900, R901), or the state is one no
run reaches. -/
inductive Stop where
  | error (e : ErrCode) (info : Word)
  | fault (f : Fault)
  | refusal (r : Refusal)
deriving DecidableEq, Repr

/-- `4 + rp`, the offset recorded by `CORRUPT_INPUT` and by a missing word (R901, R652). -/
def Reader.offset (r : Reader) : Word := 4 + r.rp

/-- `Refill()` (R652): the next payload word, or `TRUNCATED_INPUT(4 + rp)`. -/
def refill (mem : Memory) (r : Reader) : Except Stop (Word × Reader) :=
  if r.len.toNat < r.rp.toNat + 4 then .error (.error .truncatedInput r.offset)
  else .ok (mem.readWord (r.base + r.rp), { r with rp := r.rp + 4 })

/-- `mask(k) = 2^k - 1` as a word (00_scope.md R9). -/
def maskWord (k : Nat) : Word := BitVec.ofNat 32 (2 ^ k - 1)

/-- `GetBits(k)`, `k ≤ 32` (R651): the next `k` stream bits, the first in bit 0. -/
def getBits (mem : Memory) (k : Nat) (r : Reader) : Except Stop (Nat × Reader) :=
  if k ≤ r.k.toNat then
    .ok ((r.acc &&& maskWord k).toNat, { r with acc := r.acc >>> k, k := BitVec.ofNat 5 (r.k.toNat - k) })
  else
    match refill mem r with
    | .error e => .error e
    | .ok (w, r1) =>
      let j := k - r.k.toNat
      .ok ((r.acc ||| ((w &&& maskWord j) <<< r.k.toNat)).toNat,
        { r1 with acc := if j = 32 then 0 else w >>> j, k := BitVec.ofNat 5 (32 - j) })

/-- `AlignReader()` (R653): the bits up to the next byte boundary of the stream are discarded unchecked. -/
def alignReader (mem : Memory) (r : Reader) : Except Stop Reader :=
  match getBits mem (r.k.toNat % 8) r with
  | .error e => .error e
  | .ok (_, r1) => .ok r1

/-- The initialisation of the reader (R650). -/
def Latched.reader (l : Latched) : Reader := { acc := 0, k := 0, rp := 0, len := l.n - 4, base := l.src + 4 }

/-- `GetCode(T)` (R752) from node `node`; the first argument bounds the walk by the longest code (R751). -/
def getCodeFrom (mem : Memory) (t : List Slot) : Nat → Nat → Reader → Except Stop (Nat × Reader)
  | 0, _, _ => .error (.fault .badTree)
  | k + 1, node, r =>
    match getBits mem 1 r with
    | .error e => .error e
    | .ok (b, r1) =>
      match t.getD (2 * node + b) .empty with
      | .empty => .error (.fault .badTree)
      | .leaf s => .ok (s.toNat, r1)
      | .node j => getCodeFrom mem t k j.toNat r1

/-- `GetCode(T)` (R752). -/
def getCode (mem : Memory) (t : List Slot) (r : Reader) : Except Stop (Nat × Reader) :=
  getCodeFrom mem t Config.litMaxLen 0 r

end Sys2Proof.Machine
end

