-- ==== Sys2Proof/Machine/Tree.lean ====
section
/-! DEFINITION. The rebuilding of the decoder's trees (47_block_decoder.md R705 to R709). -/

namespace Sys2Proof.Machine

/-- Bit `i` of a code. -/
def codeBit (code i : Nat) : Nat := code / 2 ^ i % 2

/-- The path of one code put into a tree (R709): from bit `i - 1` of the code down to bit 1 it goes to the child, made
when the slot is EMPTY, and bit 0 gets the leaf. `nn` is the next free node. -/
def insertPath (s code : Nat) : Nat → Nat → List Slot × Nat → List Slot × Nat
  | 0, _, t => t
  | 1, node, t => (t.1.set (2 * node + codeBit code 0) (.leaf (BitVec.ofNat 9 s)), t.2)
  | i + 2, node, t =>
    let slot := 2 * node + codeBit code (i + 1)
    match t.1.getD slot .empty with
    | .empty => insertPath s code (i + 1) t.2 (t.1.set slot (.node (BitVec.ofNat 9 t.2)), t.2 + 1)
    | .leaf _ => t
    | .node j => insertPath s code (i + 1) j.toNat t

/-- All codes of a length set put into a tree, symbols ascending from `s` (R709). -/
def insertAll : Nat → List Nat → List Nat → List Slot × Nat → List Slot × Nat
  | _, [], _, t => t
  | _, _ :: _, [], t => t
  | s, l :: lens, c :: codes, t =>
    insertAll (s + 1) lens codes (if l = 0 then t else insertPath s c l 0 t)

/-- `BuildTree` (R709): `none` unless the lengths are a complete prefix code. -/
def buildTree (lens : List Nat) (n lmax : Nat) : Option (List Slot) :=
  if kraftSum lens lmax = 2 ^ lmax then
    some (insertAll 0 lens (canon lens lmax) (List.replicate (2 * (n - 1)) .empty, 1)).1
  else none

/-- The 20 lengths of 3 bits each (R705), as many as the first argument says. -/
def readLengths3 (mem : Memory) : Nat → Reader → Except Stop (List Nat × Reader)
  | 0, r => .ok ([], r)
  | k + 1, r =>
    match getBits mem 3 r with
    | .error e => .error e
    | .ok (v, r1) =>
      match readLengths3 mem k r1 with
      | .error e => .error e
      | .ok (vs, r2) => .ok (v :: vs, r2)

/-- `k` raw bytes of a stored block: `MemWrite(L_DST + out, 1, GetBits(8))` each (R703). -/
def storedBytes (dst : Word) : Nat → Nat → Memory → Reader → Except Stop (Memory × Reader)
  | 0, _, mem, r => .ok (mem, r)
  | k + 1, i, mem, r =>
    match getBits mem 8 r with
    | .error e => .error e
    | .ok (b, r1) => storedBytes dst k (i + 1) (mem.write (dst + BitVec.ofNat 32 i) (BitVec.ofNat 8 b)) r1

end Sys2Proof.Machine
end

