-- ==== Sys2Proof/Machine/Operands.lean ====
section
/-! DEFINITION. Operand assembly (30_encoding.md R313): every operand of a stream is an unsigned field, or a base value
plus one; the header is a signed value whose magnitude is `m`. -/

namespace Sys2Proof.Machine

/-- `m`: `h` if `h > 0`, else `-h`, as an unsigned 32-bit value (R302, R313, 47_block_decoder.md R701). -/
def headerMagnitude (h : Word) : Word := if h.msb then -h else h

/-- `h > 0` as a signed value: the Huffman form (R302). -/
def headerIsHuffman (h : Word) : Bool := !h.msb && h != 0

/-- The stored byte count `k = min(8192 + extraLen, m - out)` (R306, R313). -/
def storedCount (extraLen m out : Nat) : Nat := min (Config.blockSyms + extraLen) (m - out)

/-- `litCount = field6 + 257` (R313). -/
def litCountField (f : Nat) : Nat := f + 257

/-- `distCount = field6 + 1` (R313). -/
def distCountField (f : Nat) : Nat := f + 1

/-- The repeat count `RUNBASE[t] + x` (R313). -/
def repeatCount (t x : Nat) : Nat := runBase t + x

/-- The match length `LEN_BASE[i] + x` (R313). -/
def matchLength (i x : Nat) : Nat := lenBase i + x

end Sys2Proof.Machine
end

