-- ==== Sys2Proof/Machine/Engine.lean ====
section
/-! DEFINITION. The work that commands and tokens share: the Huffman attempt and the stored form of COMPRESS and MEASURE
(49_host_commands.md R802, R808), and the decoder's loops as the engine moves from token to token
(47_block_decoder.md R702, R706, R710). -/

namespace Sys2Proof.Machine

/-- A meaning's answer in the decoder state that R314 gives its token; anywhere else there is no such token. -/
def outOfPlace : Out := .fault .tokenOutOfPlace

/-- A command's work, in the state that the command start leaves (R800 step 5). -/
def State.atStart (s : State) (f : State → State) : Out :=
  match s.phase with
  | .start => .next (f s)
  | .idle => outOfPlace
  | .header => outOfPlace
  | .block => outOfPlace
  | .rle _ _ _ => outOfPlace
  | .symbol => outOfPlace
  | .dist _ => outOfPlace

/-- A header's work, in the state that DECOMPRESS leaves (47_block_decoder.md R701). -/
def State.atHeader (s : State) (f : State → State) : Out :=
  match s.phase with
  | .header => .next (f s)
  | .idle => outOfPlace
  | .start => outOfPlace
  | .block => outOfPlace
  | .rle _ _ _ => outOfPlace
  | .symbol => outOfPlace
  | .dist _ => outOfPlace

/-- A stop met while decoding: an error ends the command (60_exceptions.md R904). `s` is the state whose decoder registers,
trees, length arrays, reader and cache are kept; the spec leaves open what they hold once the command has ended (R128 of
10_state.md, 46_bit_reader.md R651). What each error keeps is DESIGN CHOICE, log entry 23: here, at a fetch, everything as
before the token. -/
def State.stopWith (s : State) (e : Stop) : Out :=
  match e with
  | .error c info => .next (s.raiseError c info)
  | .fault f => .fault f
  | .refusal r => .refused r

/-- The compressor's part of the state. -/
def State.work (s : State) : Work :=
  { mf := s.mf, buf := s.buf, tab := s.tab, cache := s.cache, snap := s.snap, wr := s.wr, mem := s.mem }

/-- The state with its compressor's part replaced. -/
def State.withWork (s : State) (w : Work) : State :=
  { s with mf := w.mf, buf := w.buf, tab := w.tab, cache := w.cache, snap := w.snap, wr := w.wr, mem := w.mem }

/-- The initialisation of the Huffman attempt (R802, R808, 45_bit_writer.md R600, 41_match_finder.md R400,
42_symbol_mapping.md R462). -/
def State.initWork (s : State) (level : Level) (mode : WMode) : Work :=
  { s.work with
    mf := initFinder (Config.profileTable (levelBits level)) s.mf
    buf := { s.buf with symbuf := [], nsym := 0, span := 0, blockStart := 0,
                        litFreq := List.replicate Config.litN 0, distFreq := List.replicate Config.distN 0 }
    cache := Cache.empty
    snap := Cache.empty
    wr := { acc := 0, k := 0, words := 0, cap := s.lat.n, base := s.lat.dst + 4, mode := mode } }

/-- The latched source as the compressor reads it (00_scope.md R9). -/
def State.source (s : State) : Source := { n := s.lat.n.toNat, src := s.srcByte }

/-- The Huffman attempt: the scan and the final flush (R802, R808). -/
def State.attempt (s : State) (level : Level) (mode : WMode) : Run :=
  (scan s.source (s.initWork level mode)).andThen finalFlush

/-- `StoredForm()` (R802): the header `-n` and the source bytes. -/
def State.storedForm (s : State) : State :=
  { s with mem := Memory.copyForward (s.lat.dst + 4) s.lat.src s.lat.n.toNat 0 (s.mem.writeWord s.lat.dst (-s.lat.n)) }

/-- `4 + 4 · wwords`, the length of a Huffman-form result (R802). -/
def huffmanLength (wr : Writer) : Word := 4 + 4 * wr.wwords

/-- COMPRESS (R802). The Huffman-form header is written after the payload. -/
def State.compressWork (s : State) (level : Level) : State :=
  match s.lat.checkCompress with
  | some e => s.raiseError e 0
  | none =>
    if s.lat.n.toNat < 4 then s.storedForm.complete (s.lat.n + 4) false false
    else
      match s.attempt level .write with
      | .ok w =>
        let s1 := s.withWork w
        State.complete { s1 with mem := s1.mem.writeWord s.lat.dst s.lat.n } (huffmanLength w.wr) true false
      | .noSpace w => (s.withWork w).storedForm.complete (s.lat.n + 4) false true

/-- MEASURE (R808): the same attempt in measure mode, and no memory written. -/
def State.measureWork (s : State) (level : Level) : State :=
  match s.lat.checkMeasure with
  | some e => s.raiseError e 0
  | none =>
    if s.lat.n.toNat < 4 then s.complete (s.lat.n + 4) false false
    else
      match s.attempt level .measure with
      | .ok w => (s.withWork w).complete (huffmanLength w.wr) true false
      | .noSpace w => (s.withWork w).complete (s.lat.n + 4) false true

/-- GET_LENGTH (R806): exactly the 4 header bytes are read. -/
def State.getLengthWork (s : State) : State :=
  match s.lat.checkGetLength with
  | some e => s.raiseError e 0
  | none =>
    let h := s.mem.readWord s.lat.src
    s.complete (headerMagnitude h) (headerIsHuffman h) false

/-- DECOMPRESS up to its header (R804, 47_block_decoder.md R700): the start checks, `out ← 0` and an empty cache. The
header is the first token the engine then executes. -/
def State.decompressWork (s : State) : State :=
  match s.lat.checkDecompress with
  | some e => s.raiseError e 0
  | none => { s with dec := { s.dec with out := 0 }, cache := Cache.empty, phase := .header }

/-- The capacity check of R804, once the header gives `m`, and what follows it. Where the check fails the register `m` keeps
its earlier value; R804 assigns it first and 10_state.md R128 leaves it open after the command. DESIGN CHOICE, log entry 23. -/
def State.withHeader (s : State) (h : Word) (f : State → State) : State :=
  let m := headerMagnitude h
  if s.lat.cap.toNat < m.toNat then s.raiseError .insufficientDestination 0
  else f { s with dec := { s.dec with m := m } }

/-- The stored form (R701): a short payload raises `TRUNCATED_INPUT(4)`, else the raw bytes are copied. -/
def State.storedHeader (s : State) (h : Word) : State :=
  s.withHeader h (fun t =>
    if t.lat.n.toNat - 4 < t.dec.m.toNat then t.raiseError .truncatedInput 4
    else
      State.complete
        { t with mem := Memory.copyForward t.lat.dst (t.lat.src + 4) t.dec.m.toNat 0 t.mem
                 dec := { t.dec with out := t.dec.m } }
        t.dec.m false false)

/-- `BlockLoop()` (R702): another block while `out < m`, else the command completes (R711). -/
def State.blockLoop (s : State) : State :=
  if s.dec.out.toNat < s.dec.m.toNat then { s with phase := .block }
  else s.complete s.dec.m true false

/-- The Huffman form (R701): the reader is initialised and the block loop entered. -/
def State.huffmanHeader (s : State) (h : Word) : State :=
  s.withHeader h (fun t => State.blockLoop { t with rd := t.lat.reader })

/-- The loop of `SymbolLoop()` (R710): another symbol within the block's budget and the output's, else the block ends. -/
def State.symbolLoop (s : State) : State :=
  if s.dec.bsym.toNat < Config.blockSyms ∧ s.dec.out.toNat < s.dec.m.toNat then { s with phase := .symbol }
  else s.blockLoop

/-- `StoredBlock()` after its type bit (R703). After an error the reader stands where it did after that bit and `out` before
the block (DESIGN CHOICE, log entry 23). -/
def State.storedBlockWork (s : State) : Out :=
  match getBits s.mem 8 s.rd with
  | .error e => s.stopWith e
  | .ok (e, r1) =>
    match alignReader s.mem r1 with
    | .error e => s.stopWith e
    | .ok r2 =>
      let k := storedCount e s.dec.m.toNat s.dec.out.toNat
      match storedBytes (s.lat.dst + s.dec.out) k 0 s.mem r2 with
      | .error e => s.stopWith e
      | .ok (mem, r3) =>
        .next (State.blockLoop
          { s with mem := mem, rd := r3, dec := { s.dec with out := s.dec.out + BitVec.ofNat 32 k } })

/-- The length array of a code-length sequence. -/
def Decoder.lensFor (d : Decoder) : RleSeq → List (BitVec 4)
  | .literal => d.lensLit
  | .distance => d.lensDist

/-- The decoder with the length array of a sequence replaced. -/
def Decoder.setLens (d : Decoder) (q : RleSeq) (l : List (BitVec 4)) : Decoder :=
  match q with
  | .literal => { d with lensLit := l }
  | .distance => { d with lensDist := l }

/-- `repeat r times: LENS[i] <- LENS[i-1] ; i <- i + 1` (R706). -/
def repeatLens : Nat → Nat → List (BitVec 4) → List (BitVec 4)
  | 0, _, lens => lens
  | r + 1, i, lens => repeatLens r (i + 1) (lens.set i (lens.getD (i - 1) 0))

/-- One code-length token against a length array (R706): the array and the index after it, or `none` for the two
uses that are `CORRUPT_INPUT`. -/
def applyCodeLength (t x count i : Nat) (lens : List (BitVec 4)) : Option (List (BitVec 4) × Nat) :=
  if t ≤ 14 then some (lens.set i (BitVec.ofNat 4 t), i + 1)
  else if i = 0 then none
  else if count < i + repeatCount t x then none
  else some (repeatLens (repeatCount t x) i lens, i + repeatCount t x)

/-- The first `count` lengths kept and the rest 0, for an alphabet of `n` symbols (R707, R708). -/
def clearFrom (count n : Nat) (lens : List (BitVec 4)) : List (BitVec 4) :=
  lens.take count ++ List.replicate (n - count) 0

/-- The end of the literal/length sequence (R707, R708): its tree is built and the distance sequence begins. After an error,
one in the 6-bit count after the tree too, `LITTREE` keeps its earlier slots and `LENS_LIT` its lengths past the count
(DESIGN CHOICE, log entry 23). -/
def State.endLiteralLens (s : State) (count : Nat) : Out :=
  let lens := clearFrom count Config.litN s.dec.lensLit
  match buildTree (lensOf lens) Config.litN Config.litMaxLen with
  | none => .next (s.raiseError .corruptInput s.rd.offset)
  | some t =>
    match getBits s.mem 6 s.rd with
    | .error e => s.stopWith e
    | .ok (f, r) =>
      .next { s with dec := { s.dec with lensLit := lens, litTree := t }, rd := r,
                     phase := .rle .distance (distCountField f) 0 }

/-- The end of the distance sequence (R708, R710): its tree is built and the symbols begin. After an error `DISTTREE` keeps
its earlier slots and `LENS_DIST` its lengths past the count (DESIGN CHOICE, log entry 23). -/
def State.endDistanceLens (s : State) (count : Nat) : Out :=
  let lens := clearFrom count Config.distN s.dec.lensDist
  match buildTree (lensOf lens) Config.distN Config.distMaxLen with
  | none => .next (s.raiseError .corruptInput s.rd.offset)
  | some t =>
    .next (State.symbolLoop { s with dec := { s.dec with lensDist := lens, distTree := t, bsym := 0 } })

/-- The loop of `UnRLE` (R706): another code-length token while `i < count`, else the sequence ends. -/
def State.nextCodeLength (s : State) (q : RleSeq) (count i : Nat) : Out :=
  if i < count then .next { s with phase := .rle q count i }
  else
    match q with
    | .literal => s.endLiteralLens count
    | .distance => s.endDistanceLens count

/-- A code-length token `t` with extra value `x` (R706). Where it is rejected the reader stands past its bits and the length
array is as before it (DESIGN CHOICE, log entry 23). -/
def State.codeLength (s : State) (t x : Nat) : Out :=
  match s.phase with
  | .rle q count i =>
    match applyCodeLength t x count i (s.dec.lensFor q) with
    | none => .next (s.raiseError .corruptInput s.rd.offset)
    | some (lens, j) => State.nextCodeLength { s with dec := s.dec.setLens q lens } q count j
  | .idle => outOfPlace
  | .start => outOfPlace
  | .header => outOfPlace
  | .block => outOfPlace
  | .symbol => outOfPlace
  | .dist _ => outOfPlace

/-- `CompressedBlock()` after its type bit, up to its first code-length token (R704, R705, R707). After an error, one in the
6-bit count after the tree too, the reader stands where it did after the type bit, and `LENS_CL` and `CLTREE` keep their
earlier contents (DESIGN CHOICE, log entry 23). -/
def State.compressedBlockWork (s : State) : Out :=
  match readLengths3 s.mem Config.clN s.rd with
  | .error e => s.stopWith e
  | .ok (lens, r1) =>
    match buildTree lens Config.clN Config.clMaxLen with
    | none => .next (s.raiseError .corruptInput r1.offset)
    | some t =>
      match getBits s.mem 6 r1 with
      | .error e => s.stopWith e
      | .ok (f, r2) =>
        .next { s with dec := { s.dec with lensCl := lens.map (BitVec.ofNat 4), clTree := t }, rd := r2,
                       phase := .rle .literal (litCountField f) 0 }

/-- A block's work, at the start of a block (R702). -/
def State.atBlock (s : State) (o : Out) : Out :=
  match s.phase with
  | .block => o
  | .idle => outOfPlace
  | .start => outOfPlace
  | .header => outOfPlace
  | .rle _ _ _ => outOfPlace
  | .symbol => outOfPlace
  | .dist _ => outOfPlace

/-- A literal/length symbol's work, with the symbol counted (R710). -/
def State.atSymbol (s : State) (f : State → State) : Out :=
  match s.phase with
  | .symbol => .next (f { s with dec := { s.dec with bsym := s.dec.bsym + 1 } })
  | .idle => outOfPlace
  | .start => outOfPlace
  | .header => outOfPlace
  | .block => outOfPlace
  | .rle _ _ _ => outOfPlace
  | .dist _ => outOfPlace

/-- `Literal(s)` (48_symbol_decoder_and_copy.md R754). -/
def State.literal (s : State) (b : Byte) : State :=
  State.symbolLoop
    { s with mem := s.mem.write (s.lat.dst + s.dec.out) b, dec := { s.dec with out := s.dec.out + 1 } }

/-- `Match(s)`, first step (R755): the length, and a distance symbol is next. -/
def State.lengthToken (s : State) (i x : Nat) : Out :=
  s.atSymbol (fun t => { t with phase := .dist (matchLength i x) })

/-- `Copy(L, d)` (R759): the forward bytewise copy from `d` bytes behind the output. -/
def State.copyMatch (s : State) (len d : Nat) : State :=
  { s with
    mem := Memory.copyForward (s.lat.dst + s.dec.out) (s.lat.dst + (s.dec.out - BitVec.ofNat 32 d)) len 0 s.mem
    dec := { s.dec with out := s.dec.out + BitVec.ofNat 32 len } }

/-- `Match(s)` from its second step on (R756 to R759): the distance, the cache, the checks, and the copy. After an error the
reader stands past the token's bits, `out` is as before it, and the cache is the one after the distance where R758 rejects it
and the one before it where R756 finds an empty entry (DESIGN CHOICE, log entry 23). -/
def State.distanceWork (s : State) (len c x : Nat) : State :=
  match unmapDist s.cache c x with
  | none => s.raiseError .corruptInput s.rd.offset
  | some (d, cache) =>
    let t := { s with cache := cache }
    if s.dec.out.toNat < d then t.raiseError .corruptInput s.rd.offset
    else if s.dec.m.toNat - s.dec.out.toNat < len then t.raiseError .corruptInput s.rd.offset
    else (t.copyMatch len d).symbolLoop

/-- A distance token `c` with extra value `x`, after a length token. -/
def State.distanceToken (s : State) (c x : Nat) : Out :=
  match s.phase with
  | .dist len => .next (s.distanceWork len c x)
  | .idle => outOfPlace
  | .start => outOfPlace
  | .header => outOfPlace
  | .block => outOfPlace
  | .rle _ _ _ => outOfPlace
  | .symbol => outOfPlace

end Sys2Proof.Machine
end

