-- ==== Sys2Proof/Machine/Blocks.lean ====
section
/-! DEFINITION. The meanings of the header forms (47_block_decoder.md R701) and of the block types (R703, R704). -/

namespace Sys2Proof.Machine

/-- `h = 0`, the empty stored form (R701). -/
def execHdrStoredEmpty (s : State) : Out := s.atHeader (fun t => t.storedHeader 0)

/-- `h < 0`, the stored form (R701). -/
def execHdrStored (h : Word) (s : State) : Out := s.atHeader (fun t => t.storedHeader h)

/-- `h > 0`, the Huffman form (R701, R702). -/
def execHdrHuffman (h : Word) (s : State) : Out := s.atHeader (fun t => t.huffmanHeader h)

/-- `BTYPE` 0 (R703). -/
def execStoredBlock (s : State) : Out := s.atBlock s.storedBlockWork

/-- `BTYPE` 1 (R704). -/
def execCompressedBlock (s : State) : Out := s.atBlock s.compressedBlockWork

end Sys2Proof.Machine
end

