-- ==== Sys2Proof/Machine/CodeLengths.lean ====
section
/-! DEFINITION. The meanings of the code-length tokens (47_block_decoder.md R706). -/

namespace Sys2Proof.Machine

/-- `CL_LEN_0` (R706). -/
def execClLen0 (s : State) : Out := s.codeLength 0 0

/-- `CL_LEN_1` (R706). -/
def execClLen1 (s : State) : Out := s.codeLength 1 0

/-- `CL_LEN_2` (R706). -/
def execClLen2 (s : State) : Out := s.codeLength 2 0

/-- `CL_LEN_3` (R706). -/
def execClLen3 (s : State) : Out := s.codeLength 3 0

/-- `CL_LEN_4` (R706). -/
def execClLen4 (s : State) : Out := s.codeLength 4 0

/-- `CL_LEN_5` (R706). -/
def execClLen5 (s : State) : Out := s.codeLength 5 0

/-- `CL_LEN_6` (R706). -/
def execClLen6 (s : State) : Out := s.codeLength 6 0

/-- `CL_LEN_7` (R706). -/
def execClLen7 (s : State) : Out := s.codeLength 7 0

/-- `CL_LEN_8` (R706). -/
def execClLen8 (s : State) : Out := s.codeLength 8 0

/-- `CL_LEN_9` (R706). -/
def execClLen9 (s : State) : Out := s.codeLength 9 0

/-- `CL_LEN_10` (R706). -/
def execClLen10 (s : State) : Out := s.codeLength 10 0

/-- `CL_LEN_11` (R706). -/
def execClLen11 (s : State) : Out := s.codeLength 11 0

/-- `CL_LEN_12` (R706). -/
def execClLen12 (s : State) : Out := s.codeLength 12 0

/-- `CL_LEN_13` (R706). -/
def execClLen13 (s : State) : Out := s.codeLength 13 0

/-- `CL_LEN_14` (R706). -/
def execClLen14 (s : State) : Out := s.codeLength 14 0

/-- `CL_REP2` (R706). -/
def execClRep2 (s : State) : Out := s.codeLength 15 0

/-- `CL_REP3_4` (R706). -/
def execClRep3_4 (x : BitVec 1) (s : State) : Out := s.codeLength 16 x.toNat

/-- `CL_REP5_8` (R706). -/
def execClRep5_8 (x : BitVec 2) (s : State) : Out := s.codeLength 17 x.toNat

/-- `CL_REP9_16` (R706). -/
def execClRep9_16 (x : BitVec 3) (s : State) : Out := s.codeLength 18 x.toNat

/-- `CL_REP17_144` (R706). -/
def execClRep17_144 (x : BitVec 7) (s : State) : Out := s.codeLength 19 x.toNat

end Sys2Proof.Machine
end

