-- ==== Sys2Proof/Machine/Commands.lean ====
section
/-! DEFINITION. The meanings of the host commands (49_host_commands.md R800 step 5, R802 to R812). -/

namespace Sys2Proof.Machine

/-- `NOP` (R810): completes at once, with `RESULT_LEN` and `RESULT_INFO` 0 and no memory access. -/
def execNop (s : State) : Out := s.atStart (fun t => t.complete 0 false false)

/-- `COMPRESS` (R802, R803). -/
def execCompress (level : Level) (s : State) : Out := s.atStart (fun t => t.compressWork level)

/-- `DECOMPRESS` (R804): the start checks; its header and tokens follow as instructions. -/
def execDecompress (s : State) : Out := s.atStart (fun t => t.decompressWork)

/-- `GET_LENGTH` (R806). -/
def execGetLength (s : State) : Out := s.atStart (fun t => t.getLengthWork)

/-- `MEASURE` (R808). -/
def execMeasure (level : Level) (s : State) : Out := s.atStart (fun t => t.measureWork level)

/-- OP 5, reserved (R812): `ILLEGAL_COMMAND` with info 0. -/
def execReservedOp5 (s : State) : Out := s.atStart (fun t => t.raiseError .illegalCommand 0)

/-- OP 6, reserved (R812): `ILLEGAL_COMMAND` with info 0. -/
def execReservedOp6 (s : State) : Out := s.atStart (fun t => t.raiseError .illegalCommand 0)

/-- OP 7, reserved (R812): `ILLEGAL_COMMAND` with info 0. -/
def execReservedOp7 (s : State) : Out := s.atStart (fun t => t.raiseError .illegalCommand 0)

end Sys2Proof.Machine
end

