-- ==== Sys2Proof/Machine/Distances.lean ====
section
/-! DEFINITION. The meanings of the distance tokens (48_symbol_decoder_and_copy.md R756 to R759). -/

namespace Sys2Proof.Machine

/-- `REP0`: cache entry 0 (R756). -/
def execRep0 (s : State) : Out := s.distanceToken 0 0

/-- `REP1`: cache entry 1 (R756). -/
def execRep1 (s : State) : Out := s.distanceToken 1 0

/-- `REP2`: cache entry 2 (R756). -/
def execRep2 (s : State) : Out := s.distanceToken 2 0

/-- `DIST_3`: distance 3 (R757). -/
def execDist3 (s : State) : Out := s.distanceToken 3 0

/-- `DIST_4`: distance 4 (R757). -/
def execDist4 (s : State) : Out := s.distanceToken 4 0

/-- `DIST_5`: distance 5 (R757). -/
def execDist5 (s : State) : Out := s.distanceToken 5 0

/-- `DIST_6`: distance 6 (R757). -/
def execDist6 (s : State) : Out := s.distanceToken 6 0

/-- `DIST_7`: distance 7 (R757). -/
def execDist7 (s : State) : Out := s.distanceToken 7 0

/-- `DIST_8`: distance 8 (R757). -/
def execDist8 (s : State) : Out := s.distanceToken 8 0

/-- `DIST_9`: distances 9 to 10 (R757). -/
def execDist9 (x : BitVec 1) (s : State) : Out := s.distanceToken 9 x.toNat

/-- `DIST_10`: distances 11 to 12 (R757). -/
def execDist10 (x : BitVec 1) (s : State) : Out := s.distanceToken 10 x.toNat

/-- `DIST_11`: distances 13 to 14 (R757). -/
def execDist11 (x : BitVec 1) (s : State) : Out := s.distanceToken 11 x.toNat

/-- `DIST_12`: distances 15 to 16 (R757). -/
def execDist12 (x : BitVec 1) (s : State) : Out := s.distanceToken 12 x.toNat

/-- `DIST_13`: distances 17 to 20 (R757). -/
def execDist13 (x : BitVec 2) (s : State) : Out := s.distanceToken 13 x.toNat

/-- `DIST_14`: distances 21 to 24 (R757). -/
def execDist14 (x : BitVec 2) (s : State) : Out := s.distanceToken 14 x.toNat

/-- `DIST_15`: distances 25 to 28 (R757). -/
def execDist15 (x : BitVec 2) (s : State) : Out := s.distanceToken 15 x.toNat

/-- `DIST_16`: distances 29 to 32 (R757). -/
def execDist16 (x : BitVec 2) (s : State) : Out := s.distanceToken 16 x.toNat

/-- `DIST_17`: distances 33 to 40 (R757). -/
def execDist17 (x : BitVec 3) (s : State) : Out := s.distanceToken 17 x.toNat

/-- `DIST_18`: distances 41 to 48 (R757). -/
def execDist18 (x : BitVec 3) (s : State) : Out := s.distanceToken 18 x.toNat

/-- `DIST_19`: distances 49 to 56 (R757). -/
def execDist19 (x : BitVec 3) (s : State) : Out := s.distanceToken 19 x.toNat

/-- `DIST_20`: distances 57 to 64 (R757). -/
def execDist20 (x : BitVec 3) (s : State) : Out := s.distanceToken 20 x.toNat

/-- `DIST_21`: distances 65 to 80 (R757). -/
def execDist21 (x : BitVec 4) (s : State) : Out := s.distanceToken 21 x.toNat

/-- `DIST_22`: distances 81 to 96 (R757). -/
def execDist22 (x : BitVec 4) (s : State) : Out := s.distanceToken 22 x.toNat

/-- `DIST_23`: distances 97 to 112 (R757). -/
def execDist23 (x : BitVec 4) (s : State) : Out := s.distanceToken 23 x.toNat

/-- `DIST_24`: distances 113 to 128 (R757). -/
def execDist24 (x : BitVec 4) (s : State) : Out := s.distanceToken 24 x.toNat

/-- `DIST_25`: distances 129 to 160 (R757). -/
def execDist25 (x : BitVec 5) (s : State) : Out := s.distanceToken 25 x.toNat

/-- `DIST_26`: distances 161 to 192 (R757). -/
def execDist26 (x : BitVec 5) (s : State) : Out := s.distanceToken 26 x.toNat

/-- `DIST_27`: distances 193 to 224 (R757). -/
def execDist27 (x : BitVec 5) (s : State) : Out := s.distanceToken 27 x.toNat

/-- `DIST_28`: distances 225 to 256 (R757). -/
def execDist28 (x : BitVec 5) (s : State) : Out := s.distanceToken 28 x.toNat

/-- `DIST_29`: distances 257 to 320 (R757). -/
def execDist29 (x : BitVec 6) (s : State) : Out := s.distanceToken 29 x.toNat

/-- `DIST_30`: distances 321 to 384 (R757). -/
def execDist30 (x : BitVec 6) (s : State) : Out := s.distanceToken 30 x.toNat

/-- `DIST_31`: distances 385 to 448 (R757). -/
def execDist31 (x : BitVec 6) (s : State) : Out := s.distanceToken 31 x.toNat

/-- `DIST_32`: distances 449 to 512 (R757). -/
def execDist32 (x : BitVec 6) (s : State) : Out := s.distanceToken 32 x.toNat

/-- `DIST_33`: distances 513 to 640 (R757). -/
def execDist33 (x : BitVec 7) (s : State) : Out := s.distanceToken 33 x.toNat

/-- `DIST_34`: distances 641 to 768 (R757). -/
def execDist34 (x : BitVec 7) (s : State) : Out := s.distanceToken 34 x.toNat

/-- `DIST_35`: distances 769 to 896 (R757). -/
def execDist35 (x : BitVec 7) (s : State) : Out := s.distanceToken 35 x.toNat

/-- `DIST_36`: distances 897 to 1024 (R757). -/
def execDist36 (x : BitVec 7) (s : State) : Out := s.distanceToken 36 x.toNat

/-- `DIST_37`: distances 1025 to 1280 (R757). -/
def execDist37 (x : BitVec 8) (s : State) : Out := s.distanceToken 37 x.toNat

/-- `DIST_38`: distances 1281 to 1536 (R757). -/
def execDist38 (x : BitVec 8) (s : State) : Out := s.distanceToken 38 x.toNat

/-- `DIST_39`: distances 1537 to 1792 (R757). -/
def execDist39 (x : BitVec 8) (s : State) : Out := s.distanceToken 39 x.toNat

/-- `DIST_40`: distances 1793 to 2048 (R757). -/
def execDist40 (x : BitVec 8) (s : State) : Out := s.distanceToken 40 x.toNat

/-- `DIST_41`: distances 2049 to 2560 (R757). -/
def execDist41 (x : BitVec 9) (s : State) : Out := s.distanceToken 41 x.toNat

/-- `DIST_42`: distances 2561 to 3072 (R757). -/
def execDist42 (x : BitVec 9) (s : State) : Out := s.distanceToken 42 x.toNat

/-- `DIST_43`: distances 3073 to 3584 (R757). -/
def execDist43 (x : BitVec 9) (s : State) : Out := s.distanceToken 43 x.toNat

/-- `DIST_44`: distances 3585 to 4096 (R757). -/
def execDist44 (x : BitVec 9) (s : State) : Out := s.distanceToken 44 x.toNat

/-- `DIST_45`: distances 4097 to 5120 (R757). -/
def execDist45 (x : BitVec 10) (s : State) : Out := s.distanceToken 45 x.toNat

/-- `DIST_46`: distances 5121 to 6144 (R757). -/
def execDist46 (x : BitVec 10) (s : State) : Out := s.distanceToken 46 x.toNat

/-- `DIST_47`: distances 6145 to 7168 (R757). -/
def execDist47 (x : BitVec 10) (s : State) : Out := s.distanceToken 47 x.toNat

/-- `DIST_48`: distances 7169 to 8192 (R757). -/
def execDist48 (x : BitVec 10) (s : State) : Out := s.distanceToken 48 x.toNat

/-- `DIST_49`: distances 8193 to 10240 (R757). -/
def execDist49 (x : BitVec 11) (s : State) : Out := s.distanceToken 49 x.toNat

/-- `DIST_50`: distances 10241 to 12288 (R757). -/
def execDist50 (x : BitVec 11) (s : State) : Out := s.distanceToken 50 x.toNat

/-- `DIST_51`: distances 12289 to 14336 (R757). -/
def execDist51 (x : BitVec 11) (s : State) : Out := s.distanceToken 51 x.toNat

/-- `DIST_52`: distances 14337 to 16384 (R757). -/
def execDist52 (x : BitVec 11) (s : State) : Out := s.distanceToken 52 x.toNat

/-- `DIST_53`: distances 16385 to 20480 (R757). -/
def execDist53 (x : BitVec 12) (s : State) : Out := s.distanceToken 53 x.toNat

/-- `DIST_54`: distances 20481 to 24576 (R757). -/
def execDist54 (x : BitVec 12) (s : State) : Out := s.distanceToken 54 x.toNat

/-- `DIST_55`: distances 24577 to 28672 (R757). -/
def execDist55 (x : BitVec 12) (s : State) : Out := s.distanceToken 55 x.toNat

/-- `DIST_56`: distances 28673 to 32768 (R757). -/
def execDist56 (x : BitVec 12) (s : State) : Out := s.distanceToken 56 x.toNat

/-- `DIST_57`: distances 32769 to 65536 (R757). -/
def execDist57 (x : BitVec 15) (s : State) : Out := s.distanceToken 57 x.toNat

/-- `DIST_58`: distances 65537 to 98304 (R757). -/
def execDist58 (x : BitVec 15) (s : State) : Out := s.distanceToken 58 x.toNat

/-- `DIST_59`: distances 98305 to 131072 (R757). -/
def execDist59 (x : BitVec 15) (s : State) : Out := s.distanceToken 59 x.toNat

/-- `DIST_60`: distances 131073 to 196608 (R757). -/
def execDist60 (x : BitVec 16) (s : State) : Out := s.distanceToken 60 x.toNat

/-- `DIST_61`: distances 196609 to 262144 (R757). -/
def execDist61 (x : BitVec 16) (s : State) : Out := s.distanceToken 61 x.toNat

/-- `DIST_62`: distances 262145 to 393216 (R757). -/
def execDist62 (x : BitVec 17) (s : State) : Out := s.distanceToken 62 x.toNat

/-- `DIST_63`: distances 393217 to 524288 (R757). -/
def execDist63 (x : BitVec 17) (s : State) : Out := s.distanceToken 63 x.toNat

end Sys2Proof.Machine
end

