-- ==== Sys2Proof/Machine/Lengths.lean ====
section
/-! DEFINITION. The meanings of the literal and length tokens (48_symbol_decoder_and_copy.md R754, R755). -/

namespace Sys2Proof.Machine

/-- `LIT b` (R754). -/
def execLit (b : Byte) (s : State) : Out := s.atSymbol (fun t => t.literal b)

/-- `LEN_0`: length 3 (R755). -/
def execLen0 (s : State) : Out := s.lengthToken 0 0

/-- `LEN_1`: length 4 (R755). -/
def execLen1 (s : State) : Out := s.lengthToken 1 0

/-- `LEN_2`: length 5 (R755). -/
def execLen2 (s : State) : Out := s.lengthToken 2 0

/-- `LEN_3`: length 6 (R755). -/
def execLen3 (s : State) : Out := s.lengthToken 3 0

/-- `LEN_4`: length 7 (R755). -/
def execLen4 (s : State) : Out := s.lengthToken 4 0

/-- `LEN_5`: length 8 (R755). -/
def execLen5 (s : State) : Out := s.lengthToken 5 0

/-- `LEN_6`: length 9 (R755). -/
def execLen6 (s : State) : Out := s.lengthToken 6 0

/-- `LEN_7`: length 10 (R755). -/
def execLen7 (s : State) : Out := s.lengthToken 7 0

/-- `LEN_8`: length 11 (R755). -/
def execLen8 (s : State) : Out := s.lengthToken 8 0

/-- `LEN_9`: length 12 (R755). -/
def execLen9 (s : State) : Out := s.lengthToken 9 0

/-- `LEN_10`: length 13 (R755). -/
def execLen10 (s : State) : Out := s.lengthToken 10 0

/-- `LEN_11`: length 14 (R755). -/
def execLen11 (s : State) : Out := s.lengthToken 11 0

/-- `LEN_12`: length 15 (R755). -/
def execLen12 (s : State) : Out := s.lengthToken 12 0

/-- `LEN_13`: length 16 (R755). -/
def execLen13 (s : State) : Out := s.lengthToken 13 0

/-- `LEN_14`: length 17 (R755). -/
def execLen14 (s : State) : Out := s.lengthToken 14 0

/-- `LEN_15`: length 18 (R755). -/
def execLen15 (s : State) : Out := s.lengthToken 15 0

/-- `LEN_16`: lengths 19 to 20 (R755). -/
def execLen16 (x : BitVec 1) (s : State) : Out := s.lengthToken 16 x.toNat

/-- `LEN_17`: lengths 21 to 22 (R755). -/
def execLen17 (x : BitVec 1) (s : State) : Out := s.lengthToken 17 x.toNat

/-- `LEN_18`: lengths 23 to 24 (R755). -/
def execLen18 (x : BitVec 1) (s : State) : Out := s.lengthToken 18 x.toNat

/-- `LEN_19`: lengths 25 to 26 (R755). -/
def execLen19 (x : BitVec 1) (s : State) : Out := s.lengthToken 19 x.toNat

/-- `LEN_20`: lengths 27 to 28 (R755). -/
def execLen20 (x : BitVec 1) (s : State) : Out := s.lengthToken 20 x.toNat

/-- `LEN_21`: lengths 29 to 30 (R755). -/
def execLen21 (x : BitVec 1) (s : State) : Out := s.lengthToken 21 x.toNat

/-- `LEN_22`: lengths 31 to 32 (R755). -/
def execLen22 (x : BitVec 1) (s : State) : Out := s.lengthToken 22 x.toNat

/-- `LEN_23`: lengths 33 to 34 (R755). -/
def execLen23 (x : BitVec 1) (s : State) : Out := s.lengthToken 23 x.toNat

/-- `LEN_24`: lengths 35 to 36 (R755). -/
def execLen24 (x : BitVec 1) (s : State) : Out := s.lengthToken 24 x.toNat

/-- `LEN_25`: lengths 37 to 38 (R755). -/
def execLen25 (x : BitVec 1) (s : State) : Out := s.lengthToken 25 x.toNat

/-- `LEN_26`: lengths 39 to 40 (R755). -/
def execLen26 (x : BitVec 1) (s : State) : Out := s.lengthToken 26 x.toNat

/-- `LEN_27`: lengths 41 to 42 (R755). -/
def execLen27 (x : BitVec 1) (s : State) : Out := s.lengthToken 27 x.toNat

/-- `LEN_28`: lengths 43 to 44 (R755). -/
def execLen28 (x : BitVec 1) (s : State) : Out := s.lengthToken 28 x.toNat

/-- `LEN_29`: lengths 45 to 46 (R755). -/
def execLen29 (x : BitVec 1) (s : State) : Out := s.lengthToken 29 x.toNat

/-- `LEN_30`: lengths 47 to 48 (R755). -/
def execLen30 (x : BitVec 1) (s : State) : Out := s.lengthToken 30 x.toNat

/-- `LEN_31`: lengths 49 to 50 (R755). -/
def execLen31 (x : BitVec 1) (s : State) : Out := s.lengthToken 31 x.toNat

/-- `LEN_32`: lengths 51 to 54 (R755). -/
def execLen32 (x : BitVec 2) (s : State) : Out := s.lengthToken 32 x.toNat

/-- `LEN_33`: lengths 55 to 58 (R755). -/
def execLen33 (x : BitVec 2) (s : State) : Out := s.lengthToken 33 x.toNat

/-- `LEN_34`: lengths 59 to 62 (R755). -/
def execLen34 (x : BitVec 2) (s : State) : Out := s.lengthToken 34 x.toNat

/-- `LEN_35`: lengths 63 to 66 (R755). -/
def execLen35 (x : BitVec 2) (s : State) : Out := s.lengthToken 35 x.toNat

/-- `LEN_36`: lengths 67 to 70 (R755). -/
def execLen36 (x : BitVec 2) (s : State) : Out := s.lengthToken 36 x.toNat

/-- `LEN_37`: lengths 71 to 74 (R755). -/
def execLen37 (x : BitVec 2) (s : State) : Out := s.lengthToken 37 x.toNat

/-- `LEN_38`: lengths 75 to 78 (R755). -/
def execLen38 (x : BitVec 2) (s : State) : Out := s.lengthToken 38 x.toNat

/-- `LEN_39`: lengths 79 to 82 (R755). -/
def execLen39 (x : BitVec 2) (s : State) : Out := s.lengthToken 39 x.toNat

/-- `LEN_40`: lengths 83 to 86 (R755). -/
def execLen40 (x : BitVec 2) (s : State) : Out := s.lengthToken 40 x.toNat

/-- `LEN_41`: lengths 87 to 90 (R755). -/
def execLen41 (x : BitVec 2) (s : State) : Out := s.lengthToken 41 x.toNat

/-- `LEN_42`: lengths 91 to 94 (R755). -/
def execLen42 (x : BitVec 2) (s : State) : Out := s.lengthToken 42 x.toNat

/-- `LEN_43`: lengths 95 to 98 (R755). -/
def execLen43 (x : BitVec 2) (s : State) : Out := s.lengthToken 43 x.toNat

/-- `LEN_44`: lengths 99 to 102 (R755). -/
def execLen44 (x : BitVec 2) (s : State) : Out := s.lengthToken 44 x.toNat

/-- `LEN_45`: lengths 103 to 106 (R755). -/
def execLen45 (x : BitVec 2) (s : State) : Out := s.lengthToken 45 x.toNat

/-- `LEN_46`: lengths 107 to 110 (R755). -/
def execLen46 (x : BitVec 2) (s : State) : Out := s.lengthToken 46 x.toNat

/-- `LEN_47`: lengths 111 to 114 (R755). -/
def execLen47 (x : BitVec 2) (s : State) : Out := s.lengthToken 47 x.toNat

/-- `LEN_48`: lengths 115 to 122 (R755). -/
def execLen48 (x : BitVec 3) (s : State) : Out := s.lengthToken 48 x.toNat

/-- `LEN_49`: lengths 123 to 130 (R755). -/
def execLen49 (x : BitVec 3) (s : State) : Out := s.lengthToken 49 x.toNat

/-- `LEN_50`: lengths 131 to 138 (R755). -/
def execLen50 (x : BitVec 3) (s : State) : Out := s.lengthToken 50 x.toNat

/-- `LEN_51`: lengths 139 to 146 (R755). -/
def execLen51 (x : BitVec 3) (s : State) : Out := s.lengthToken 51 x.toNat

/-- `LEN_52`: lengths 147 to 154 (R755). -/
def execLen52 (x : BitVec 3) (s : State) : Out := s.lengthToken 52 x.toNat

/-- `LEN_53`: lengths 155 to 162 (R755). -/
def execLen53 (x : BitVec 3) (s : State) : Out := s.lengthToken 53 x.toNat

/-- `LEN_54`: lengths 163 to 170 (R755). -/
def execLen54 (x : BitVec 3) (s : State) : Out := s.lengthToken 54 x.toNat

/-- `LEN_55`: lengths 171 to 178 (R755). -/
def execLen55 (x : BitVec 3) (s : State) : Out := s.lengthToken 55 x.toNat

/-- `LEN_56`: lengths 179 to 194 (R755). -/
def execLen56 (x : BitVec 4) (s : State) : Out := s.lengthToken 56 x.toNat

/-- `LEN_57`: lengths 195 to 210 (R755). -/
def execLen57 (x : BitVec 4) (s : State) : Out := s.lengthToken 57 x.toNat

/-- `LEN_58`: lengths 211 to 226 (R755). -/
def execLen58 (x : BitVec 4) (s : State) : Out := s.lengthToken 58 x.toNat

/-- `LEN_59`: lengths 227 to 242 (R755). -/
def execLen59 (x : BitVec 4) (s : State) : Out := s.lengthToken 59 x.toNat

/-- `LEN_60`: lengths 243 to 306 (R755). -/
def execLen60 (x : BitVec 6) (s : State) : Out := s.lengthToken 60 x.toNat

/-- `LEN_61`: lengths 307 to 370 (R755). -/
def execLen61 (x : BitVec 6) (s : State) : Out := s.lengthToken 61 x.toNat

/-- `LEN_62`: lengths 371 to 626 (R755). -/
def execLen62 (x : BitVec 8) (s : State) : Out := s.lengthToken 62 x.toNat

/-- `LEN_63`: lengths 627 to 17010 (R755). -/
def execLen63 (x : BitVec 14) (s : State) : Out := s.lengthToken 63 x.toNat

end Sys2Proof.Machine
end

