-- ==== Sys2Proof/Machine/Dispatch.lean ====
section
/-! DEFINITION. One arm per row of spec/opcode_table.json: the meaning of every instruction. -/

namespace Sys2Proof.Machine

def exec (i : Instr) (s : State) : Host.Outcome State Fault Refusal :=
  match i with
  | .nop => Sys2Proof.Machine.execNop s
  | .compress level => Sys2Proof.Machine.execCompress level s
  | .decompress => Sys2Proof.Machine.execDecompress s
  | .getLength => Sys2Proof.Machine.execGetLength s
  | .measure level => Sys2Proof.Machine.execMeasure level s
  | .reservedOp5 => Sys2Proof.Machine.execReservedOp5 s
  | .reservedOp6 => Sys2Proof.Machine.execReservedOp6 s
  | .reservedOp7 => Sys2Proof.Machine.execReservedOp7 s
  | .hdrStoredEmpty => Sys2Proof.Machine.execHdrStoredEmpty s
  | .hdrStored h => Sys2Proof.Machine.execHdrStored h s
  | .hdrHuffman h => Sys2Proof.Machine.execHdrHuffman h s
  | .storedBlock => Sys2Proof.Machine.execStoredBlock s
  | .compressedBlock => Sys2Proof.Machine.execCompressedBlock s
  | .clLen0 => Sys2Proof.Machine.execClLen0 s
  | .clLen1 => Sys2Proof.Machine.execClLen1 s
  | .clLen2 => Sys2Proof.Machine.execClLen2 s
  | .clLen3 => Sys2Proof.Machine.execClLen3 s
  | .clLen4 => Sys2Proof.Machine.execClLen4 s
  | .clLen5 => Sys2Proof.Machine.execClLen5 s
  | .clLen6 => Sys2Proof.Machine.execClLen6 s
  | .clLen7 => Sys2Proof.Machine.execClLen7 s
  | .clLen8 => Sys2Proof.Machine.execClLen8 s
  | .clLen9 => Sys2Proof.Machine.execClLen9 s
  | .clLen10 => Sys2Proof.Machine.execClLen10 s
  | .clLen11 => Sys2Proof.Machine.execClLen11 s
  | .clLen12 => Sys2Proof.Machine.execClLen12 s
  | .clLen13 => Sys2Proof.Machine.execClLen13 s
  | .clLen14 => Sys2Proof.Machine.execClLen14 s
  | .clRep2 => Sys2Proof.Machine.execClRep2 s
  | .clRep3_4 x => Sys2Proof.Machine.execClRep3_4 x s
  | .clRep5_8 x => Sys2Proof.Machine.execClRep5_8 x s
  | .clRep9_16 x => Sys2Proof.Machine.execClRep9_16 x s
  | .clRep17_144 x => Sys2Proof.Machine.execClRep17_144 x s
  | .lit b => Sys2Proof.Machine.execLit b s
  | .len0 => Sys2Proof.Machine.execLen0 s
  | .len1 => Sys2Proof.Machine.execLen1 s
  | .len2 => Sys2Proof.Machine.execLen2 s
  | .len3 => Sys2Proof.Machine.execLen3 s
  | .len4 => Sys2Proof.Machine.execLen4 s
  | .len5 => Sys2Proof.Machine.execLen5 s
  | .len6 => Sys2Proof.Machine.execLen6 s
  | .len7 => Sys2Proof.Machine.execLen7 s
  | .len8 => Sys2Proof.Machine.execLen8 s
  | .len9 => Sys2Proof.Machine.execLen9 s
  | .len10 => Sys2Proof.Machine.execLen10 s
  | .len11 => Sys2Proof.Machine.execLen11 s
  | .len12 => Sys2Proof.Machine.execLen12 s
  | .len13 => Sys2Proof.Machine.execLen13 s
  | .len14 => Sys2Proof.Machine.execLen14 s
  | .len15 => Sys2Proof.Machine.execLen15 s
  | .len16 x => Sys2Proof.Machine.execLen16 x s
  | .len17 x => Sys2Proof.Machine.execLen17 x s
  | .len18 x => Sys2Proof.Machine.execLen18 x s
  | .len19 x => Sys2Proof.Machine.execLen19 x s
  | .len20 x => Sys2Proof.Machine.execLen20 x s
  | .len21 x => Sys2Proof.Machine.execLen21 x s
  | .len22 x => Sys2Proof.Machine.execLen22 x s
  | .len23 x => Sys2Proof.Machine.execLen23 x s
  | .len24 x => Sys2Proof.Machine.execLen24 x s
  | .len25 x => Sys2Proof.Machine.execLen25 x s
  | .len26 x => Sys2Proof.Machine.execLen26 x s
  | .len27 x => Sys2Proof.Machine.execLen27 x s
  | .len28 x => Sys2Proof.Machine.execLen28 x s
  | .len29 x => Sys2Proof.Machine.execLen29 x s
  | .len30 x => Sys2Proof.Machine.execLen30 x s
  | .len31 x => Sys2Proof.Machine.execLen31 x s
  | .len32 x => Sys2Proof.Machine.execLen32 x s
  | .len33 x => Sys2Proof.Machine.execLen33 x s
  | .len34 x => Sys2Proof.Machine.execLen34 x s
  | .len35 x => Sys2Proof.Machine.execLen35 x s
  | .len36 x => Sys2Proof.Machine.execLen36 x s
  | .len37 x => Sys2Proof.Machine.execLen37 x s
  | .len38 x => Sys2Proof.Machine.execLen38 x s
  | .len39 x => Sys2Proof.Machine.execLen39 x s
  | .len40 x => Sys2Proof.Machine.execLen40 x s
  | .len41 x => Sys2Proof.Machine.execLen41 x s
  | .len42 x => Sys2Proof.Machine.execLen42 x s
  | .len43 x => Sys2Proof.Machine.execLen43 x s
  | .len44 x => Sys2Proof.Machine.execLen44 x s
  | .len45 x => Sys2Proof.Machine.execLen45 x s
  | .len46 x => Sys2Proof.Machine.execLen46 x s
  | .len47 x => Sys2Proof.Machine.execLen47 x s
  | .len48 x => Sys2Proof.Machine.execLen48 x s
  | .len49 x => Sys2Proof.Machine.execLen49 x s
  | .len50 x => Sys2Proof.Machine.execLen50 x s
  | .len51 x => Sys2Proof.Machine.execLen51 x s
  | .len52 x => Sys2Proof.Machine.execLen52 x s
  | .len53 x => Sys2Proof.Machine.execLen53 x s
  | .len54 x => Sys2Proof.Machine.execLen54 x s
  | .len55 x => Sys2Proof.Machine.execLen55 x s
  | .len56 x => Sys2Proof.Machine.execLen56 x s
  | .len57 x => Sys2Proof.Machine.execLen57 x s
  | .len58 x => Sys2Proof.Machine.execLen58 x s
  | .len59 x => Sys2Proof.Machine.execLen59 x s
  | .len60 x => Sys2Proof.Machine.execLen60 x s
  | .len61 x => Sys2Proof.Machine.execLen61 x s
  | .len62 x => Sys2Proof.Machine.execLen62 x s
  | .len63 x => Sys2Proof.Machine.execLen63 x s
  | .rep0 => Sys2Proof.Machine.execRep0 s
  | .rep1 => Sys2Proof.Machine.execRep1 s
  | .rep2 => Sys2Proof.Machine.execRep2 s
  | .dist3 => Sys2Proof.Machine.execDist3 s
  | .dist4 => Sys2Proof.Machine.execDist4 s
  | .dist5 => Sys2Proof.Machine.execDist5 s
  | .dist6 => Sys2Proof.Machine.execDist6 s
  | .dist7 => Sys2Proof.Machine.execDist7 s
  | .dist8 => Sys2Proof.Machine.execDist8 s
  | .dist9 x => Sys2Proof.Machine.execDist9 x s
  | .dist10 x => Sys2Proof.Machine.execDist10 x s
  | .dist11 x => Sys2Proof.Machine.execDist11 x s
  | .dist12 x => Sys2Proof.Machine.execDist12 x s
  | .dist13 x => Sys2Proof.Machine.execDist13 x s
  | .dist14 x => Sys2Proof.Machine.execDist14 x s
  | .dist15 x => Sys2Proof.Machine.execDist15 x s
  | .dist16 x => Sys2Proof.Machine.execDist16 x s
  | .dist17 x => Sys2Proof.Machine.execDist17 x s
  | .dist18 x => Sys2Proof.Machine.execDist18 x s
  | .dist19 x => Sys2Proof.Machine.execDist19 x s
  | .dist20 x => Sys2Proof.Machine.execDist20 x s
  | .dist21 x => Sys2Proof.Machine.execDist21 x s
  | .dist22 x => Sys2Proof.Machine.execDist22 x s
  | .dist23 x => Sys2Proof.Machine.execDist23 x s
  | .dist24 x => Sys2Proof.Machine.execDist24 x s
  | .dist25 x => Sys2Proof.Machine.execDist25 x s
  | .dist26 x => Sys2Proof.Machine.execDist26 x s
  | .dist27 x => Sys2Proof.Machine.execDist27 x s
  | .dist28 x => Sys2Proof.Machine.execDist28 x s
  | .dist29 x => Sys2Proof.Machine.execDist29 x s
  | .dist30 x => Sys2Proof.Machine.execDist30 x s
  | .dist31 x => Sys2Proof.Machine.execDist31 x s
  | .dist32 x => Sys2Proof.Machine.execDist32 x s
  | .dist33 x => Sys2Proof.Machine.execDist33 x s
  | .dist34 x => Sys2Proof.Machine.execDist34 x s
  | .dist35 x => Sys2Proof.Machine.execDist35 x s
  | .dist36 x => Sys2Proof.Machine.execDist36 x s
  | .dist37 x => Sys2Proof.Machine.execDist37 x s
  | .dist38 x => Sys2Proof.Machine.execDist38 x s
  | .dist39 x => Sys2Proof.Machine.execDist39 x s
  | .dist40 x => Sys2Proof.Machine.execDist40 x s
  | .dist41 x => Sys2Proof.Machine.execDist41 x s
  | .dist42 x => Sys2Proof.Machine.execDist42 x s
  | .dist43 x => Sys2Proof.Machine.execDist43 x s
  | .dist44 x => Sys2Proof.Machine.execDist44 x s
  | .dist45 x => Sys2Proof.Machine.execDist45 x s
  | .dist46 x => Sys2Proof.Machine.execDist46 x s
  | .dist47 x => Sys2Proof.Machine.execDist47 x s
  | .dist48 x => Sys2Proof.Machine.execDist48 x s
  | .dist49 x => Sys2Proof.Machine.execDist49 x s
  | .dist50 x => Sys2Proof.Machine.execDist50 x s
  | .dist51 x => Sys2Proof.Machine.execDist51 x s
  | .dist52 x => Sys2Proof.Machine.execDist52 x s
  | .dist53 x => Sys2Proof.Machine.execDist53 x s
  | .dist54 x => Sys2Proof.Machine.execDist54 x s
  | .dist55 x => Sys2Proof.Machine.execDist55 x s
  | .dist56 x => Sys2Proof.Machine.execDist56 x s
  | .dist57 x => Sys2Proof.Machine.execDist57 x s
  | .dist58 x => Sys2Proof.Machine.execDist58 x s
  | .dist59 x => Sys2Proof.Machine.execDist59 x s
  | .dist60 x => Sys2Proof.Machine.execDist60 x s
  | .dist61 x => Sys2Proof.Machine.execDist61 x s
  | .dist62 x => Sys2Proof.Machine.execDist62 x s
  | .dist63 x => Sys2Proof.Machine.execDist63 x s

end Sys2Proof.Machine
end

