-- ==== Sys2Proof/Machine/Fetch.lean ====
section
/-! DEFINITION. How the engine comes by its next instruction: the latched command word (49_host_commands.md R800), the
header at the start of the source (47_block_decoder.md R701), and the tokens of the bit stream, whose format the decoder's
state selects (30_encoding.md R314). -/

namespace Sys2Proof.Machine

/-- What a fetch answers: an instruction and the state after its bits are read, or a step of its own (the idle engine
waits; the stream ends inside a token). -/
inductive Fetched where
  | run (i : Instr) (s : State)
  | stop (o : Out)
deriving Repr

/-- The command word of the latched `L_OP` and `L_LEVEL` (10_state.md R118, 30_encoding.md R301). -/
def Latched.commandWord (l : Latched) : Word := l.op.zeroExtend 32 ||| (l.level.zeroExtend 32 <<< 4)

/-- The tree and format of the token that a phase selects (R314), and whether its extra bits are read: a repeat symbol with
no previous length raises before they are (47_block_decoder.md R706). -/
def readToken (mem : Memory) (f : Format) (tree : List Slot) (readExtra : Nat → Bool) (r : Reader) :
    Except Stop (Instr × Reader) :=
  match getCode mem tree r with
  | .error e => .error e
  | .ok (sym, r1) =>
    match getBits mem (if readExtra sym then extraBits f sym else 0) r1 with
    | .error e => .error e
    | .ok (x, r2) =>
      match decodeSym f sym x with
      | .ok i => .ok (i, r2)
      | .error _ => .error (.refusal .reservedSymbol)

/-- A block's type bit as a token (47_block_decoder.md R702). -/
def readBlockType (mem : Memory) (r : Reader) : Except Stop (Instr × Reader) :=
  match getBits mem 1 r with
  | .error e => .error e
  | .ok (b, r1) =>
    match decodeSym .btype b 0 with
    | .ok i => .ok (i, r1)
    | .error _ => .error (.refusal .reservedSymbol)

/-- A token read from the stream is run in the state after its bits; a stop ends the step. -/
def fetched (s : State) (t : Except Stop (Instr × Reader)) : Fetched :=
  match t with
  | .ok (i, r) => .run i { s with rd := r }
  | .error e => .stop (s.stopWith e)

/-- The next instruction, by the engine's phase (R314). -/
def fetch (s : State) : Fetched :=
  match s.phase with
  | .idle => .stop (.next s)
  | .start => .run (decodeCommand s.lat.commandWord) s
  | .header => .run (decodeHeader (s.mem.readWord s.lat.src)) s
  | .block => fetched s (readBlockType s.mem s.rd)
  | .rle _ _ i => fetched s (readToken s.mem .clsym s.dec.clTree (fun t => decide (t < 15 ∨ 0 < i)) s.rd)
  | .symbol => fetched s (readToken s.mem .llsym s.dec.litTree (fun _ => true) s.rd)
  | .dist _ => fetched s (readToken s.mem .dsym s.dec.distTree (fun _ => true) s.rd)

/-- A tree of two 1-bit codes: `0` for the symbol `sym`, `1` for another one. -/
def twoLeaves (sym other : Nat) : List Slot := [.leaf (BitVec.ofNat 9 sym), .leaf (BitVec.ofNat 9 other)]

/-- The reader with 31 pending bits: a 1-bit code `0`, then the extra value `x`, then zeros. -/
def pendingToken (r : Reader) (x : Nat) : Reader := { r with acc := BitVec.ofNat 32 (2 * x), k := 31 }

/-- A DECOMPRESS in progress, as far as a token needs it: `BUSY`, with an output of `m` bytes of which `out` are
written. -/
def State.decompressing (s : State) (out m : Nat) : State :=
  { s with
    regs := { s.regs with busy := true, done := false, err := false }
    lat := { s.lat with op := 2, cap := 0x7FFFFFFF }
    dec := { s.dec with out := BitVec.ofNat 32 out, m := BitVec.ofNat 32 m, bsym := 0 } }

/-- The state whose next engine step fetches the word `w` of spec/opcode_table.json (log entry 12): a command is
latched; a header stands at the start of the source; any other token is pending in the reader, in the decoder state that
has such tokens, with a code in which it is one bit. -/
def placeWord (s : State) (nbits w : Nat) : State :=
  let f := tableFormat nbits w
  let sym := w % 2 ^ f.symBits
  let x := w / 2 ^ f.symBits
  match f with
  | .cmdw => s.startCommand (BitVec.ofNat 32 w)
  | .hdr =>
    let t := s.decompressing 0 0
    { t with phase := .header, mem := s.mem.writeWord s.lat.src (BitVec.ofNat 32 w) }
  | .btype =>
    let t := s.decompressing 0 1
    { t with
      phase := .block
      rd := { s.rd with acc := BitVec.ofNat 32 sym, k := 25, rp := 0, len := 8 }
      mem := (s.mem.writeWord s.rd.base 0).writeWord (s.rd.base + 4) 0 }
  | .clsym =>
    let t := s.decompressing 0 0x7FFFFFFF
    { t with
      phase := .rle .literal 257 1
      rd := pendingToken s.rd x
      dec := { t.dec with clTree := twoLeaves sym ((sym + 1) % Config.clN) } }
  | .llsym =>
    let t := s.decompressing 0 0x7FFFFFFF
    { t with
      phase := .symbol
      rd := pendingToken s.rd x
      dec := { t.dec with litTree := twoLeaves sym ((sym + 1) % Config.litN) } }
  | .dsym =>
    let t := s.decompressing Config.window 0x7FFFFFFF
    { t with
      phase := .dist Config.minMatch
      rd := pendingToken s.rd x
      cache := { r0 := 3, r1 := 4, r2 := 5 }
      dec := { t.dec with distTree := twoLeaves sym ((sym + 1) % Config.distN) } }

/-- The engine's turn comes next. -/
def State.engineNext (s : State) : State :=
  match s.inputs with
  | [] => s
  | _ :: _ => { s with inputs := .engine :: s.inputs }

end Sys2Proof.Machine
end

