-- ==== Sys2Proof/Machine/Accesses.lean ====
section
/-! DEFINITION. The engine's instruction cut into the steps of 70_reset_and_hazards.md R958: the accesses of host memory that
it makes, one byte each (20_memory.md R205) and in program order (R211), and then the register update that ends it. -/

namespace Sys2Proof.Machine

/-- One access of the engine's memory port (R205). -/
inductive Access where
  /-- `MemRead(addr, 1)`. -/
  | read (addr : Word)
  /-- `MemWrite(addr, 1, value)`. -/
  | write (addr : Word) (value : Byte)
deriving DecidableEq, Repr

/-- Host memory after one access. -/
def Access.onMemory (m : Memory) : Access → Memory
  | .read _ => m
  | .write a v => m.write a v

/-- The reads of `k` bytes from `a` on. -/
def readsAt (a : Word) (k : Nat) : List Access := (List.range k).map (fun i => .read (a + BitVec.ofNat 32 i))

/-- The writes of `k` bytes from `a` on, with the values that the memory `m` holds there. -/
def writesAt (m : Memory) (a : Word) (k : Nat) : List Access :=
  (List.range k).map (fun i => .write (a + BitVec.ofNat 32 i) (m.read (a + BitVec.ofNat 32 i)))

/-- The accesses of a bytewise copy of `k` bytes, each byte written before the next one is read; `m` is the memory after
it. -/
def copiesAt (m : Memory) (dst src : Word) (k : Nat) : List Access :=
  (List.range k).flatMap (fun i =>
    [.read (src + BitVec.ofNat 32 i), .write (dst + BitVec.ofNat 32 i) (m.read (dst + BitVec.ofNat 32 i))])

/-- The word loads of a reader up to payload offset `stop`, four byte reads each (46_bit_reader.md R652). -/
def Reader.loadsTo (r : Reader) (stop : Word) : List Access := readsAt (r.base + r.rp) (stop.toNat - r.rp.toNat)

/-- `StoredForm()` (49_host_commands.md R802); `t` is the state after it. -/
def storedFormAccesses (s t : State) : List Access :=
  writesAt t.mem s.lat.dst 4 ++ copiesAt t.mem (s.lat.dst + 4) s.lat.src s.lat.n.toNat

/-- COMPRESS (R802, 20_memory.md R206): the source, the payload words that the Huffman attempt emits, and then the header,
or after NoSpace the stored form. Each source byte is read once, in order, before the first write: R208 and R218 let the
engine read any source byte at any time and as often as it likes (log entry 1). -/
def compressAccesses (s t : State) (level : Level) : List Access :=
  match s.lat.checkCompress with
  | some _ => []
  | none =>
    if s.lat.n.toNat < 4 then storedFormAccesses s t
    else
      let a := s.attempt level .write
      readsAt s.lat.src s.lat.n.toNat ++
        (writesAt a.work.mem (s.lat.dst + 4) (4 * a.work.wr.wwords.toNat) ++
          match a with
          | .ok _ => writesAt t.mem s.lat.dst 4
          | .noSpace _ => storedFormAccesses s t)

/-- MEASURE reads the source as COMPRESS does and writes nothing (R808). -/
def measureAccesses (s : State) : List Access :=
  match s.lat.checkMeasure with
  | some _ => []
  | none => if s.lat.n.toNat < 4 then [] else readsAt s.lat.src s.lat.n.toNat

/-- GET_LENGTH reads exactly the four header bytes (R806). -/
def getLengthAccesses (s : State) : List Access :=
  match s.lat.checkGetLength with
  | some _ => []
  | none => readsAt s.lat.src 4

/-- The accesses of a command. NOP, the reserved commands and the start checks of DECOMPRESS make none (R801, R810, R812). -/
def commandAccesses (s t : State) : List Access :=
  if s.lat.op = 1 then compressAccesses s t (levelOfBits s.lat.level)
  else if s.lat.op = 3 then getLengthAccesses s
  else if s.lat.op = 4 then measureAccesses s
  else []

/-- The header of DECOMPRESS, and the payload of a stored form that is copied (R804, 47_block_decoder.md R701). -/
def headerAccesses (s t : State) : List Access :=
  let h := s.mem.readWord s.lat.src
  let m := (headerMagnitude h).toNat
  readsAt s.lat.src 4 ++
    if headerIsHuffman h ∨ s.lat.cap.toNat < m ∨ s.lat.n.toNat - 4 < m then []
    else copiesAt t.mem s.lat.dst (s.lat.src + 4) m

/-- The payload offset up to which an instruction that goes from `s` to `t` has loaded words: the reader's, or, where it
ended in an error, the one that `ERR_OFFSET` records (60_exceptions.md R901). -/
def loadedTo (t : State) : Word := if t.regs.errcode = 0 then t.rd.rp else t.regs.errOffset - 4

/-- The raw bytes of a stored block from byte `i` on (47_block_decoder.md R703): the word load that a byte needs, then its
write. Where the payload ends first, the bytes before that are written (60_exceptions.md R903). -/
def storedByteAccesses (mem : Memory) (dst : Word) : Nat → Nat → Reader → List Access
  | 0, _, _ => []
  | k + 1, i, r =>
    match getBits mem 8 r with
    | .error _ => []
    | .ok (b, r1) =>
      r.loadsTo r1.rp ++
        .write (dst + BitVec.ofNat 32 i) (BitVec.ofNat 8 b) :: storedByteAccesses mem dst k (i + 1) r1

/-- A stored block after its type bit (R703): `r0` is the reader before that bit, `r` after it. -/
def storedBlockAccesses (s t : State) (r0 r : Reader) : List Access :=
  match getBits s.mem 8 r with
  | .error _ => r0.loadsTo (loadedTo t)
  | .ok (e, r1) =>
    match alignReader s.mem r1 with
    | .error _ => r0.loadsTo (loadedTo t)
    | .ok r2 =>
      r0.loadsTo r2.rp ++
        storedByteAccesses s.mem (s.lat.dst + s.dec.out) (storedCount e s.dec.m.toNat s.dec.out.toNat) 0 r2

/-- A block (R702): a compressed one only loads words up to its first code-length token. -/
def blockAccesses (s t : State) : List Access :=
  match readBlockType s.mem s.rd with
  | .ok (.storedBlock, r) => storedBlockAccesses s t s.rd r
  | .ok _ => s.rd.loadsTo (loadedTo t)
  | .error _ => s.rd.loadsTo (loadedTo t)

/-- The bytes of output that an instruction that goes from `s` to `t` produces. -/
def produced (s t : State) : Nat := (t.dec.out - s.dec.out).toNat

/-- A literal/length token: its words, and the byte of a literal (48_symbol_decoder_and_copy.md R752, R754). -/
def symbolAccesses (s t : State) : List Access :=
  s.rd.loadsTo (loadedTo t) ++ writesAt t.mem (s.lat.dst + s.dec.out) (produced s t)

/-- A distance token: its words, and the bytewise copy from the distance that it leaves in `R0` (R756, R757, R759). -/
def distanceAccesses (s t : State) : List Access :=
  s.rd.loadsTo (loadedTo t) ++
    copiesAt t.mem (s.lat.dst + s.dec.out) (s.lat.dst + (s.dec.out - t.cache.r0.zeroExtend 32)) (produced s t)

/-- The accesses of the instruction that the engine is at, where it takes the engine from `s` to `t`. -/
def accessesBetween (s t : State) : List Access :=
  match s.phase with
  | .idle => []
  | .start => commandAccesses s t
  | .header => headerAccesses s t
  | .block => blockAccesses s t
  | .rle _ _ _ => s.rd.loadsTo (loadedTo t)
  | .symbol => symbolAccesses s t
  | .dist _ => distanceAccesses s t

/-- The engine's instruction as a whole: fetch, then run it. -/
def engineStep (s : State) : Out :=
  match fetch s with
  | .run i t => exec i t
  | .stop o => o

/-- The accesses of host memory that the engine's instruction makes, in order, whether or not the host spoils its result
(R213: the engine still accesses only its two ranges). -/
def accesses (s : State) : List Access :=
  let u := { s with tainted := false }
  match engineStep u with
  | .next t => accessesBetween u t
  | .fault _ => []
  | .refused _ => []

/-- The whole of the instruction that the engine is at, or what is left of it. -/
def engineRest (s : State) : Out := engineStep { s with made := 0 }

/-- ONE STEP OF R958: the next access of host memory, or, when all are made, the register update that ends the instruction.
Its bytes stand in host memory by then, so that the update writes none. -/
def engineTick (s : State) : Out :=
  match (accesses s)[s.made]? with
  | some a => .next { s with mem := a.onMemory s.mem, made := s.made + 1 }
  | none => engineRest s

end Sys2Proof.Machine
end

