-- ==== Sys2Proof/Machine/HostPort.lean ====
section
/-! DEFINITION. The host's side (70_reset_and_hazards.md R956): the register target port (10_state.md R104 to R117,
49_host_commands.md R800, R811, R814) and the host's accesses to host memory (20_memory.md R213). -/

namespace Sys2Proof.Machine

/-- The bus address of a register: `REG_BASE + offset` (R102, R104). -/
def regAddress (offset : Nat) : Nat := Config.regBase + offset

/-- Only aligned 32-bit accesses at offsets 0x00 to 0x3F are defined (R104). -/
def regAccessDefined (width offset : Nat) : Bool := decide (width = 32 ∧ offset % 4 = 0 ∧ offset < 64)

/-- The value a register reads as, by offset (R104 to R117); a reserved offset reads 0. -/
def Regs.readAt (r : Regs) (offset : Nat) : Word :=
  if offset = 0x00 then Config.idValue
  else if offset = 0x04 then r.cmdWord
  else if offset = 0x08 then r.statusWord
  else if offset = 0x0C then r.errcode.zeroExtend 32
  else if offset = 0x10 then r.srcAddr
  else if offset = 0x14 then r.srcLen
  else if offset = 0x18 then r.dstAddr
  else if offset = 0x1C then r.dstCap
  else if offset = 0x20 then r.resultLen
  else if offset = 0x24 then r.resultInfoWord
  else if offset = 0x28 then r.errOffset
  else if offset = 0x2C then r.irqEnWord
  else 0

/-- A write to a register that starts nothing: the operand registers and `IRQ_EN` take the value, `STATUS` its
write-1-to-clear, and a write to a read-only or reserved register has no effect (R104, R116, R117, R814). -/
def Regs.writeAt (r : Regs) (offset : Nat) (v : Word) : Regs :=
  if offset = 0x08 then r.clearW1C v
  else if offset = 0x10 then { r with srcAddr := v }
  else if offset = 0x14 then { r with srcLen := v }
  else if offset = 0x18 then { r with dstAddr := v }
  else if offset = 0x1C then { r with dstCap := v }
  else if offset = 0x2C then { r with doneIe := v.getLsbD 0, errIe := v.getLsbD 1 }
  else r

/-- A host write to `CMD`: it starts a command (R800), or while `BUSY` it only sets `OVERRUN` (R811). -/
def State.writeCmd (s : State) (v : Word) : State :=
  if s.regs.busy then { s with regs := s.regs.flagsAtOverrun } else s.startCommand v

/-- A host read of the register block: the value is returned and no register changes (R104). -/
def hostRegRead (width offset : Nat) (s : State) : Out :=
  if regAccessDefined width offset then .next { s with hostData := s.regs.readAt offset }
  else .refused .registerAccess

/-- A host write of the register block. -/
def hostRegWrite (width offset : Nat) (v : Word) (s : State) : Out :=
  if regAccessDefined width offset then
    if offset = 0x04 then .next (s.writeCmd v) else .next { s with regs := s.regs.writeAt offset v }
  else .refused .registerAccess

/-- The address lies in the destination range of the running command (R201). R213 names the destination range of any command:
that only COMPRESS and DECOMPRESS have one to protect is DESIGN CHOICE, log entry 6. -/
def State.inBusyDst (s : State) (a : Word) : Bool :=
  s.regs.busy && writesDst s.lat.op && inRange a s.lat.dst s.lat.cap

/-- The address lies in the source range of the running command (R201). R213 names the source range of any command: that NOP
and the reserved commands, which read no memory (R810, R812), have none to protect is DESIGN CHOICE, log entry 6. -/
def State.inBusySrc (s : State) (a : Word) : Bool :=
  s.regs.busy && readsSrc s.lat.op && inRange a s.lat.src s.lat.n

/-- A host read of one byte of host memory; from the destination range of a running command it is any value (R213, U5). -/
def hostMemRead (a : Word) (s : State) : Out :=
  if s.inBusyDst a then
    .next { s with hostData := (Config.freeByte (s.fresh + 1) a.toNat).zeroExtend 32, fresh := s.fresh + 1 }
  else .next { s with hostData := (s.mem.read a).zeroExtend 32 }

/-- A host write of one byte of host memory; into a range of the running command it leaves that command's result open
(R213, U6). -/
def hostMemWrite (a : Word) (v : Byte) (s : State) : Out :=
  .next { s with mem := s.mem.write a v, tainted := s.tainted || s.inBusySrc a || s.inBusyDst a }

/-- A reset (R950 to R952). -/
def hostReset (s : State) : Out := .next s.resetNow

end Sys2Proof.Machine
end

