-- ==== Sys2Proof/Machine/Step.lean ====
section
/-! DEFINITION. One step of the machine: the host's next action if there is one, else the engine's instruction
(10_state.md R100, log entries 1 and 2). -/

namespace Sys2Proof.Machine

/-- One step. With no host action pending it is the engine's turn. -/
def step (s : State) : Host.Outcome State Fault Refusal :=
  match s.inputs with
  | [] => engineRest s
  | a :: rest =>
    let t := { s with inputs := rest }
    match a with
    | .engine => engineRest t
    | .tick => engineTick t
    | .reset => hostReset t
    | .regRead width offset => hostRegRead width offset t
    | .regWrite width offset v => hostRegWrite width offset v t
    | .memRead addr => hostMemRead addr t
    | .memWrite addr v => hostMemWrite addr v t

/-- The state in which the next step fetches and runs the instruction of the table's word `w` (log entry 12). -/
def State.withFetchWord (s : State) (nbits w : Nat) : State := (placeWord s nbits w).engineNext

end Sys2Proof.Machine
end

