-- ==== Sys2Proof/Safety.lean ====
section
/-! DEFINITION. What counts as a legal state and a safe run, in the terms the statements use: the invariants of the register
block, of host memory and of the decoder, the shape of the state after an end of a command, and the readings of a bit
stream, of a code and of a cache that the statements compare the machine with. -/

namespace Sys2Proof.Machine

/-! Turns. -/

/-- It is the engine's turn: no host action is pending, or the next entry gives the engine its step. -/
def State.engineTurn (s : State) : Prop := s.inputs = [] ∨ ∃ rest, s.inputs = .engine :: rest

/-- It is the engine's turn to take one step of 70_reset_and_hazards.md R958. -/
def State.tickTurn (s : State) : Prop := ∃ rest, s.inputs = .tick :: rest

/-- The state in which a step's action runs: the entry of the input list that it uses is gone. -/
def State.entryTaken (s : State) : State := { s with inputs := s.inputs.tail }

/-- The state in which the engine runs its instruction: the entry that gives it its turn is gone, and no access of host
memory is counted. -/
def State.taken (s : State) : State := { s.entryTaken with made := 0 }

/-- `k` turns of the engine before the host acts, as long as they answer. -/
def engineTurns : Nat → State → Out
  | 0, s => .next s
  | k + 1, s =>
    match step { s with inputs := .engine :: s.inputs } with
    | .next t => engineTurns k t
    | .fault f => .fault f
    | .refused r => .refused r

/-- `k` steps of R958 before the host acts, as long as they answer. -/
def engineTicks : Nat → State → Out
  | 0, s => .next s
  | k + 1, s =>
    match step { s with inputs := .tick :: s.inputs } with
    | .next t => engineTicks k t
    | .fault f => .fault f
    | .refused r => .refused r

/-! Legal states. -/

/-- The result and error registers hold what the start of a command puts there (49_host_commands.md R800 step 3). -/
def Regs.resultsClear (r : Regs) : Prop :=
  r.errcode = 0 ∧ r.errOffset = 0 ∧ r.resultLen = 0 ∧ r.form = false ∧ r.fallback = false

/-- The register block and the engine agree: `DONE` and `ERR` are never both 1, `BUSY` implies neither (10_state.md
R107), a running command has clear results (R113 to R115), the engine is idle exactly when `BUSY` is 0, `ERRCODE` is at
most 7 (R108), and host memory is canonical. -/
def State.Inv (s : State) : Prop :=
  s.mem.wf = true ∧
  (s.regs.busy = true → s.regs.done = false ∧ s.regs.err = false ∧ s.regs.resultsClear) ∧
  ¬(s.regs.done = true ∧ s.regs.err = true) ∧
  (s.phase = .idle ↔ s.regs.busy = false) ∧
  s.regs.errcode.toNat ≤ 7

/-- The decoder's next byte lies inside a destination that is legal for the command (20_memory.md R202, R206,
48_symbol_decoder_and_copy.md R754). -/
def State.outputRoom (s : State) : Prop :=
  s.lat.rangesBad = false ∧ s.dec.m.toNat ≤ s.lat.cap.toNat ∧ s.dec.out.toNat < s.dec.m.toNat

/-- What every decoder state keeps of its command and its destination. -/
def State.DstInv (s : State) : Prop :=
  match s.phase with
  | .idle => True
  | .start => True
  | .header => s.lat.op = 2 ∧ s.lat.rangesBad = false ∧ 4 ≤ s.lat.n.toNat
  | .block => s.lat.op = 2 ∧ s.outputRoom
  | .rle _ _ _ => s.lat.op = 2 ∧ s.outputRoom
  | .symbol => s.lat.op = 2 ∧ s.outputRoom
  | .dist _ => s.lat.op = 2 ∧ s.outputRoom

/-! The bit stream. -/

/-- Stream bit `b` of a payload at `base`: bit `b mod 8` of byte `b div 8` (20_memory.md R204). -/
def streamBit (mem : Memory) (base : Word) (b : Nat) : Bool := (mem.read (base + BitVec.ofNat 32 (b / 8))).getLsbD (b % 8)

/-- The number that `k` stream bits from `pos` on stand for, the first one in bit 0 (46_bit_reader.md R651). -/
def streamNat (mem : Memory) (base : Word) : Nat → Nat → Nat
  | _, 0 => 0
  | pos, k + 1 => (streamBit mem base pos).toNat + 2 * streamNat mem base (pos + 1) k

/-- The next byte boundary of the stream (R653). -/
def alignUp (pos : Nat) : Nat := (pos + 7) / 8 * 8

/-- The number of stream bits a reader has consumed (R650). -/
def Reader.position (r : Reader) : Nat := 8 * r.rp.toNat - r.k.toNat

/-- The stream bits of the whole words of a reader's payload; a last partial word is never loaded (R652). -/
def Reader.bits (r : Reader) : Nat := 32 * (r.len.toNat / 4)

/-- The reader's pending bits are the stream's (R650): bit `i` of `RACC` is stream bit `position + i` for `i < RK`, and 0
above. -/
def Reader.Coherent (mem : Memory) (r : Reader) : Prop :=
  r.rp.toNat % 4 = 0 ∧ r.k.toNat ≤ 8 * r.rp.toNat ∧ r.rp.toNat ≤ r.len.toNat ∧
  ∀ i, r.acc.getLsbD i = (decide (i < r.k.toNat) && streamBit mem r.base (r.position + i))

/-- The reader reads the payload of the latched source (R650), and agrees with it. -/
def State.readerReady (s : State) : Prop :=
  4 ≤ s.lat.n.toNat ∧ s.rd.base = s.lat.src + 4 ∧ s.rd.len = s.lat.n - 4 ∧ s.rd.Coherent s.mem

/-- While a Huffman-form payload is decoded and the host leaves it alone, the reader is ready. -/
def State.StreamInv (s : State) : Prop :=
  match s.phase with
  | .idle => True
  | .start => True
  | .header => True
  | .block => s.tainted = false → s.readerReady
  | .rle _ _ _ => s.tainted = false → s.readerReady
  | .symbol => s.tainted = false → s.readerReady
  | .dist _ => s.tainted = false → s.readerReady

/-- The payload word of `ERR_OFFSET` for a token that ends at stream bit `pos`: the offset just past the last word loaded
(46_bit_reader.md R655, 60_exceptions.md R901). -/
def offsetAt (pos : Nat) : Word := BitVec.ofNat 32 (4 + 4 * ((pos + 31) / 32))

/-- The bit writer's register invariant (45_bit_writer.md R600, R601): bits `[31:WK]` of `WACC` are 0, the words emitted are
within the capacity, and the payload range does not wrap. -/
def Writer.Clean (wr : Writer) : Prop :=
  wr.acc.toNat < 2 ^ wr.k.toNat ∧ 4 * wr.wwords.toNat ≤ wr.cap.toNat ∧ wr.base.toNat + wr.cap.toNat ≤ 2 ^ 32

/-- Bit `b` of the stream written so far: in memory for the words emitted, then in `WACC` (R606). -/
def Work.bit (w : Work) (b : Nat) : Bool :=
  if b < 32 * w.wr.wwords.toNat then streamBit w.mem w.wr.base b else w.wr.acc.getLsbD (b - 32 * w.wr.wwords.toNat)

/-! Codes. -/

/-- The Kraft sum of a length array in units of `2^-lmax` (43_huffman_builder.md R510). -/
def kraftOf (lmax : Nat) : List Nat → Nat
  | [] => 0
  | l :: rest => (if l = 0 then 0 else 2 ^ (lmax - l)) + kraftOf lmax rest

/-- The lengths of `n` symbols that are a complete prefix code with no code longer than `lmax` (R510). -/
def CompleteCode (lens : List Nat) (n lmax : Nat) : Prop :=
  lens.length = n ∧ (∀ l ∈ lens, l ≤ lmax) ∧ kraftOf lmax lens = 2 ^ lmax

/-- The trees that a decoder state reads were built from complete codes (47_block_decoder.md R705 to R709), and the
code lengths decoded so far are at most 14 (R706, 30_encoding.md R315). -/
def State.TreesBuilt (s : State) : Prop :=
  let cl := ∃ l, CompleteCode l 20 7 ∧ buildTree l 20 7 = some s.dec.clTree
  let lit := ∃ l, CompleteCode l 320 14 ∧ buildTree l 320 14 = some s.dec.litTree
  let dist := ∃ l, CompleteCode l 64 14 ∧ buildTree l 64 14 = some s.dec.distTree
  match s.phase with
  | .idle => True
  | .start => True
  | .header => True
  | .block => True
  | .rle .literal count i =>
    cl ∧ i < count ∧ count ≤ 320 ∧ s.dec.lensLit.length = 320 ∧ ∀ j, j < i → (s.dec.lensLit.getD j 0).toNat ≤ 14
  | .rle .distance count i =>
    cl ∧ lit ∧ i < count ∧ count ≤ 64 ∧ s.dec.lensDist.length = 64 ∧ ∀ j, j < i → (s.dec.lensDist.getD j 0).toNat ≤ 14
  | .symbol => lit ∧ dist
  | .dist _ => lit ∧ dist

/-- Bits `[31:RK]` of `RACC` are 0 (46_bit_reader.md R650). -/
def Reader.Clean (r : Reader) : Prop := r.acc.toNat < 2 ^ r.k.toNat

/-- What the decoder's fetches rest on: its trees, the sizes of its length arrays (10_state.md R124), and clean pending
bits. -/
def State.DecodeInv (s : State) : Prop :=
  s.TreesBuilt ∧ (s.dec.lensLit.length = 320 ∧ s.dec.lensDist.length = 64) ∧ s.rd.Clean

/-- The tokens of a run-length coding applied to a length array from index `i` on (47_block_decoder.md R706), for a sequence
of `count` lengths. -/
def applyItems (count : Nat) : List Item → List (BitVec 4) × Nat → Option (List (BitVec 4) × Nat)
  | [], a => some a
  | i :: rest, a =>
    match applyCodeLength i.t i.x count a.2 a.1 with
    | none => none
    | some b => applyItems count rest b

/-- The literal/length symbol of a buffered entry (44_block_encoder.md R550, R551). -/
def Sym.litSym : Sym → Nat
  | .literal b => b.toNat
  | .copy lcode _ _ _ => 256 + lcode.toNat

/-- The distance symbol of a buffered entry, if it is a match (R551). -/
def Sym.distSym : Sym → List Nat
  | .literal _ => []
  | .copy _ _ dcode _ => [dcode.toNat]

/-- The frequency tables count the buffered symbols (R550, R551), and the code-length table has its 20 entries (10_state.md
R123). -/
def Work.counted (w : Work) : Prop :=
  let syms := w.buf.symbuf.take w.buf.nsym.toNat
  (∀ s, tableNat w.buf.litFreq s = countEq s (syms.map Sym.litSym)) ∧
  (∀ c, tableNat w.buf.distFreq c = countEq c (syms.flatMap Sym.distSym)) ∧
  w.tab.clLen.length = 20

/-! The repeat-distance cache and the match finder. -/

/-- The encoder's cache invariant (42_symbol_mapping.md R463): nonzero entries are distances 3 to 524,288, pairwise
distinct. -/
def Cache.Ok (c : Cache) : Prop :=
  (∀ r : BitVec 20, (r = c.r0 ∨ r = c.r1 ∨ r = c.r2) → r ≠ 0 → 3 ≤ r.toNat ∧ r.toNat ≤ 524288) ∧
  (c.r0 ≠ 0 → c.r0 ≠ c.r1 ∧ c.r0 ≠ c.r2) ∧ (c.r1 ≠ 0 → c.r1 ≠ c.r2)

/-- Every valid link of the match finder's tables names a position below `q` (41_match_finder.md R402, R403). -/
def MatchFinder.linksBelow (mf : MatchFinder) (q : Nat) : Prop :=
  ∀ l : Nat × Link, l ∈ mf.head ++ mf.chain → l.2.valid = true → l.2.pos.toNat < q

/-! Ends of a command, and frames. -/

/-- The state with the registers of an error entry (60_exceptions.md R904), everything else as it is. -/
def State.erredWith (s : State) (code : BitVec 4) (info : Word) : State :=
  { s with
    phase := .idle
    regs := { s.regs with busy := false, done := false, err := true, errcode := code, errOffset := info,
                          resultLen := 0, form := false, fallback := false } }

/-- Where the error of a start check leaves the machine: the registers of the error entry and the engine idle, with every
byte of the destination range any value (20_memory.md R215; log entry 4); nothing else changes but the counter of free
values. -/
def State.ErredAny (s t : State) (code : BitVec 4) (info : Word) : Prop :=
  ∃ mem fresh, t = { s.erredWith code info with mem := mem, fresh := fresh } ∧
    (∀ x : Word, inRange x s.lat.dst s.lat.cap = false → mem.read x = s.mem.read x)

/-- The state with the registers of a completion (49_host_commands.md R813), everything else as it is. -/
def State.doneWith (s : State) (len : Word) (form fallback : Bool) : State :=
  { s with
    phase := .idle
    regs := { s.regs with busy := false, done := true, resultLen := len, form := form, fallback := fallback } }

/-- Two memories read alike outside `[a, a + len)`. -/
def SameOutside (m m' : Memory) (a len : Word) : Prop := ∀ x : Word, inRange x a len = false → m'.read x = m.read x

/-- Two memories read alike except at `a + 0 .. a + (k - 1)`. -/
def SameExcept (m m' : Memory) (a : Word) (k : Nat) : Prop :=
  ∀ x : Word, (∀ j, j < k → x ≠ a + BitVec.ofNat 32 j) → m'.read x = m.read x

/-- The compressor's units are unchanged. -/
def KeepsCompressor (s t : State) : Prop :=
  t.mf = s.mf ∧ t.buf = s.buf ∧ t.tab = s.tab ∧ t.snap = s.snap ∧ t.wr = s.wr

/-- The latched operands and the model's input fields are unchanged. -/
def KeepsCommand (s t : State) : Prop :=
  t.lat = s.lat ∧ t.inputs = s.inputs ∧ t.hostData = s.hostData ∧ t.tainted = s.tainted

/-- The steps of 70_reset_and_hazards.md R958 from `s` end where the instruction as a whole, which answers `t`, ends: a finite
number of them, of which all but the last access at most one byte of host memory and change no register, and the last one
updates the registers and, where it raises no error, changes no byte. -/
def TicksReach (s t : State) : Prop :=
  ∃ k u, engineTicks (k + 1) s = .next u ∧ u = { t with mem := u.mem } ∧ (∀ x, u.mem.read x = t.mem.read x) ∧
    (∀ j, j < k → ∃ v w, engineTicks j s = .next v ∧ engineTicks (j + 1) s = .next w ∧
      w = { s with mem := w.mem, made := j + 1 } ∧ ∃ a, ∀ x, x ≠ a → w.mem.read x = v.mem.read x) ∧
    ∃ v, engineTicks k s = .next v ∧ (u.regs.errcode = 0 → ∀ x, u.mem.read x = v.mem.read x)

/-- Where a decoding error leaves the machine: the registers of the error entry, the engine idle, and the destination
range any value (20_memory.md R215); memory outside it reads as before. -/
def State.ErredDecode (s t : State) (code : BitVec 4) (info : Word) : Prop :=
  t.regs = (s.erredWith code info).regs ∧ t.phase = .idle ∧ SameOutside s.mem t.mem s.lat.dst s.lat.cap ∧
  KeepsCompressor s t ∧ KeepsCommand s t

/-- Where the decoder goes after a block (47_block_decoder.md R702, R711): another block, or the command is done. -/
def BlockNext (s t : State) (out : Nat) : Prop :=
  if out < s.dec.m.toNat then t.regs = s.regs ∧ t.phase = .block
  else t.regs = (s.doneWith s.dec.m true false).regs ∧ t.phase = .idle

/-- Where the decoder goes after a data symbol (R710): another symbol within the block's budget, or as after a block. -/
def SymbolNext (s t : State) (out bsym : Nat) : Prop :=
  if bsym < 8192 ∧ out < s.dec.m.toNat then t.regs = s.regs ∧ t.phase = .symbol else BlockNext s t out

/-- A source and a destination range that COMPRESS and DECOMPRESS reject (20_memory.md R202). -/
def BadRanges (src n dst cap : Nat) : Prop :=
  2 ^ 32 < src + n ∨ 2 ^ 32 < dst + cap ∨ (0 < n ∧ 0 < cap ∧ src < dst + cap ∧ dst < src + n)

/-- The encoded buffer's stored form of the source at the destination (49_host_commands.md R802 `StoredForm`): the header
`-n`, then the source bytes; memory elsewhere reads as before. -/
def StoredAt (s t : State) : Prop :=
  (∀ j, j < 4 → t.mem.read (s.lat.dst + BitVec.ofNat 32 j) = (-s.lat.n).extractLsb' (8 * j) 8) ∧
  (∀ j, j < s.lat.n.toNat → t.mem.read (s.lat.dst + BitVec.ofNat 32 (4 + j)) = s.mem.read (s.lat.src + BitVec.ofNat 32 j)) ∧
  SameExcept s.mem t.mem s.lat.dst (4 + s.lat.n.toNat)

end Sys2Proof.Machine
end

