-- ==== Sys2Proof/Certificates/Slice0/Obligations.lean ====
section
/-! DEFINITION. The statements about the machine, each from the numbered rules of spec/ that its docstring names. -/

open Sys2Proof Sys2Proof.Machine

/-! Reset and the register block -/

/-- R950, R951: a reset is one step that gives every register its reset value and drops `irq`; host memory is not changed,
but for the destination of an abandoned COMPRESS or DECOMPRESS (R952), which holds any value. -/
def Obligations.ResetStepRestoresRegisterBlock : Prop :=
  ∀ (s : State) (rest : List Input), s.inputs = .reset :: rest →
    ∃ t, step s = .next t ∧ t.regs = Regs.reset ∧
      (∀ offset, t.regs.readAt offset = if offset = 0 then 0x4A534331 else 0) ∧
      irq t = false ∧ t.phase = .idle ∧ t.inputs = rest ∧
      (s.regs.busy = false ∨ (s.lat.op ≠ 1 ∧ s.lat.op ≠ 2) → t.mem = s.mem) ∧ SameOutside s.mem t.mem s.lat.dst s.lat.cap

/-- The state after reset is legal: the register block and the engine agree, host memory is canonical, and the decoder
state keeps what decoding rests on (the reset values of internal state are the model's: log entry 7). -/
def Obligations.ResetStateIsLegal : Prop :=
  State.reset.Inv ∧ State.reset.DstInv ∧ State.reset.StreamInv ∧ State.reset.DecodeInv

/-- Every step keeps the register block and the engine in agreement (R107, R108), and host memory canonical. -/
def Obligations.StepKeepsInv : Prop := ∀ s t : State, s.Inv → step s = .next t → t.Inv

/-- Every step keeps the decoder's next byte inside a legal destination (R202, R754, R758). -/
def Obligations.StepKeepsDstInv : Prop := ∀ s t : State, s.DstInv → step s = .next t → t.DstInv

/-- Every step keeps the bit reader in agreement with the payload it reads (R650), as long as the host does not break
R213. -/
def Obligations.StepKeepsStreamInv : Prop :=
  ∀ s t : State, s.Inv → s.DstInv → s.StreamInv → step s = .next t → t.StreamInv

/-- Every step keeps the trees that the decoder reads built from complete codes (R704 to R709). -/
def Obligations.StepKeepsDecodeInv : Prop := ∀ s t : State, s.DecodeInv → step s = .next t → t.DecodeInv

/-- R751, R959: in such a state the engine's step, its whole instruction or one access of it, always answers a next state,
whatever the stream holds: it neither faults nor refuses. -/
def Obligations.EngineNeverStops : Prop :=
  ∀ s : State, s.DecodeInv → s.engineTurn ∨ s.tickTurn → ∃ t, step s = .next t

/-- R959: every command ends, whatever the source holds and whether or not the host spoiled it: after finitely many turns
`BUSY` is 0 and the engine waits for the next `CMD` write. -/
def Obligations.EveryCommandEnds : Prop :=
  ∀ s : State, s.Inv → s.DstInv → s.DecodeInv →
    ∃ k t, engineTurns k s = .next t ∧ t.phase = .idle ∧ t.regs.busy = false

/-- R112, R206, R201: an engine step, a whole instruction or one access of it, changes no byte of host memory outside the
destination range, and a command that writes no destination changes none at all. -/
def Obligations.EngineWritesOnlyDestination : Prop :=
  ∀ s t : State, s.DstInv → s.engineTurn ∨ s.tickTurn → step s = .next t →
    SameOutside s.mem t.mem s.lat.dst s.lat.cap ∧ t.lat = s.lat ∧
    (s.phase = .start → s.lat.op ≠ 1 → s.lat.op ≠ 2 → t.mem = s.mem)

/-- R104 to R117 and V5: an aligned 32-bit read of the register block returns the register's value and changes no register;
an access that is not an aligned 32-bit access to offsets 0x00 to 0x3F is refused. -/
def Obligations.RegisterAccessFollowsContract : Prop :=
  (∀ (s : State) (rest : List Input) (offset : Nat), s.inputs = .regRead 32 offset :: rest →
    offset % 4 = 0 → offset < 64 →
    ∃ v : Word, step s = .next { s with inputs := rest, hostData := v } ∧
      (offset = 0x00 → v = 0x4A534331) ∧
      (offset = 0x04 → v.toNat = s.regs.cmdOp.toNat + 16 * s.regs.cmdLevel.toNat) ∧
      (offset = 0x08 → v.toNat =
        s.regs.busy.toNat + 2 * s.regs.done.toNat + 4 * s.regs.err.toNat + 8 * s.regs.overrun.toNat) ∧
      (offset = 0x0C → v.toNat = s.regs.errcode.toNat) ∧
      (offset = 0x10 → v = s.regs.srcAddr) ∧ (offset = 0x14 → v = s.regs.srcLen) ∧
      (offset = 0x18 → v = s.regs.dstAddr) ∧ (offset = 0x1C → v = s.regs.dstCap) ∧
      (offset = 0x20 → v = s.regs.resultLen) ∧
      (offset = 0x24 → v.toNat = s.regs.form.toNat + 2 * s.regs.fallback.toNat) ∧
      (offset = 0x28 → v = s.regs.errOffset) ∧
      (offset = 0x2C → v.toNat = s.regs.doneIe.toNat + 2 * s.regs.errIe.toNat) ∧
      (0x30 ≤ offset → v = 0)) ∧
  (∀ (s : State) (rest : List Input) (width offset : Nat) (v : Word),
    width ≠ 32 ∨ offset % 4 ≠ 0 ∨ 64 ≤ offset →
    (s.inputs = .regRead width offset :: rest → step s = .refused .registerAccess) ∧
    (s.inputs = .regWrite width offset v :: rest → step s = .refused .registerAccess))

/-- R104, R109 to R112, R116, R117, R814: a write to an operand register or to `IRQ_EN` stores its value, at any time; a write
to `STATUS` clears each of `DONE`, `ERR` and `OVERRUN` that has a 1 in the written value, and nothing else; a write to a
read-only or reserved register changes nothing. -/
def Obligations.RegisterWriteChangesOnlyItsField : Prop :=
  ∀ (s : State) (rest : List Input) (offset : Nat) (v : Word), s.inputs = .regWrite 32 offset v :: rest →
    (offset = 0x10 → step s = .next { s with inputs := rest, regs := { s.regs with srcAddr := v } }) ∧
    (offset = 0x14 → step s = .next { s with inputs := rest, regs := { s.regs with srcLen := v } }) ∧
    (offset = 0x18 → step s = .next { s with inputs := rest, regs := { s.regs with dstAddr := v } }) ∧
    (offset = 0x1C → step s = .next { s with inputs := rest, regs := { s.regs with dstCap := v } }) ∧
    (offset = 0x2C → step s =
      .next { s with inputs := rest, regs := { s.regs with doneIe := v.getLsbD 0, errIe := v.getLsbD 1 } }) ∧
    (offset = 0x08 → step s = .next { s with
      inputs := rest
      regs := { s.regs with
        done := s.regs.done && !v.getLsbD 1
        err := s.regs.err && !v.getLsbD 2
        overrun := s.regs.overrun && !v.getLsbD 3 } }) ∧
    (offset ∈ [0x00, 0x0C, 0x20, 0x24, 0x28, 0x30, 0x34, 0x38, 0x3C] → step s = .next { s with inputs := rest })

/-- R800, R118: a write to `CMD` while idle stores `OP` and `LEVEL`, latches the six operands, clears `DONE`, `ERR` and the
result and error registers, and sets `BUSY`; `OVERRUN`, `IRQ_EN` and everything else are not changed. -/
def Obligations.CommandWriteLatchesAndStarts : Prop :=
  ∀ (s : State) (rest : List Input) (v : Word), s.inputs = .regWrite 32 0x04 v :: rest → s.regs.busy = false →
    step s = .next { s with
      inputs := rest
      regs := { s.regs with
        cmdOp := v.extractLsb' 0 3, cmdLevel := v.extractLsb' 4 2
        busy := true, done := false, err := false
        errcode := 0, resultLen := 0, form := false, fallback := false, errOffset := 0 }
      lat :=
        { op := v.extractLsb' 0 3, level := v.extractLsb' 4 2, src := s.regs.srcAddr, n := s.regs.srcLen,
          dst := s.regs.dstAddr, cap := s.regs.dstCap }
      phase := .start
      tainted := false }

/-- R811: a write to `CMD` while busy is ignored but for `OVERRUN`, which stays 1 until the host writes 1 to `STATUS` bit 3
or until reset. -/
def Obligations.CommandWriteWhileBusyOverruns : Prop :=
  (∀ (s : State) (rest : List Input) (v : Word), s.inputs = .regWrite 32 0x04 v :: rest → s.regs.busy = true →
    step s = .next { s with inputs := rest, regs := { s.regs with overrun := true } }) ∧
  (∀ s t : State, s.regs.overrun = true → step s = .next t → t.regs.overrun = true ∨
    (∃ rest, s.inputs = .reset :: rest) ∨ (∃ rest v, s.inputs = .regWrite 32 0x08 v :: rest ∧ v.getLsbD 3 = true))

/-- R953: only a reset or a host write changes `IRQ_EN`, `OVERRUN` and the operand registers; and after a reset the engine
accepts its first command at once. -/
def Obligations.OnlyHostOrResetChangesOperands : Prop :=
  (∀ s t : State, step s = .next t → (∀ rest, s.inputs ≠ .reset :: rest) →
    (∀ w o v rest, s.inputs ≠ .regWrite w o v :: rest) →
    t.regs.srcAddr = s.regs.srcAddr ∧ t.regs.srcLen = s.regs.srcLen ∧ t.regs.dstAddr = s.regs.dstAddr ∧
    t.regs.dstCap = s.regs.dstCap ∧ t.regs.doneIe = s.regs.doneIe ∧ t.regs.errIe = s.regs.errIe ∧
    t.regs.overrun = s.regs.overrun) ∧
  (∀ (s : State) (rest : List Input) (v : Word), s.inputs = .reset :: .regWrite 32 0x04 v :: rest →
    ∃ t u, step s = .next t ∧ step t = .next u ∧ u.regs.busy = true ∧ u.phase = .start ∧
      u.regs.cmdOp = v.extractLsb' 0 3)

/-- R800, R813, R904, R906, R907: while a command runs the registers do not change and `irq` is low; the engine step, its
whole instruction or one step of R958, that clears `BUSY` sets exactly one of `DONE` and `ERR`, with the registers each
leaves, and raises `irq` if that one is enabled. -/
def Obligations.CommandEndsWithOneOutcome : Prop :=
  ∀ s t : State, s.Inv → s.regs.busy = true → s.engineTurn ∨ s.tickTurn → step s = .next t →
    irq s = false ∧
    (t.regs.busy = true → t.regs = s.regs) ∧
    (t.regs.busy = false → t.phase = .idle ∧ t.regs.err = !t.regs.done ∧
      irq t = ((t.regs.done && s.regs.doneIe) || (!t.regs.done && s.regs.errIe)) ∧
      (s.tainted = false → t.regs.done = true → t.regs.errcode = 0 ∧ t.regs.errOffset = 0) ∧
      (s.tainted = false → t.regs.done = false → t.regs.errcode ≠ 0 ∧ t.regs.resultLen = 0 ∧
        t.regs.form = false ∧ t.regs.fallback = false))

/-- R213, R956: while the engine is idle the host reads back what it wrote to host memory; a host write into a range of the
running command leaves that command's result open (the model's field `tainted`, log entry 6), and a host read of its
destination changes no byte and no register. -/
def Obligations.HostMemoryAccess : Prop :=
  (∀ (s : State) (rest : List Input) (a : Word) (v : Byte), s.inputs = .memWrite a v :: .memRead a :: rest →
    s.regs.busy = false →
    ∃ t u, step s = .next t ∧ step t = .next u ∧ u.hostData = v.setWidth 32 ∧ u.regs = s.regs ∧ u.mem.read a = v ∧
      (∀ x, x ≠ a → u.mem.read x = s.mem.read x) ∧ u.tainted = s.tainted) ∧
  (∀ (s : State) (rest : List Input) (a : Word) (v : Byte), s.inputs = .memWrite a v :: rest → s.regs.busy = true →
    (s.lat.op ∈ [1, 2, 3, 4] ∧ inRange a s.lat.src s.lat.n = true) ∨
      (s.lat.op ∈ [1, 2] ∧ inRange a s.lat.dst s.lat.cap = true) →
    step s = .next { s with inputs := rest, mem := s.mem.write a v, tainted := true }) ∧
  (∀ (s : State) (rest : List Input) (a : Word), s.inputs = .memRead a :: rest →
    ∃ t, step s = .next t ∧ t.mem = s.mem ∧ t.regs = s.regs ∧ t.phase = s.phase ∧ t.tainted = s.tainted)

/-- R213 and U6: the step that ends a command during which the host broke R213 leaves exactly one of `DONE` and `ERR` set and
an `ERRCODE` of the list, and no byte outside the destination range changes. That such a step comes is
`EveryCommandEnds`. -/
def Obligations.SpoiledCommandEndLeavesDoneOrErr : Prop :=
  ∀ (i : Instr) (s t : State), s.DstInv → s.tainted = true → s.regs.busy = true → exec i s = .next t →
    t.regs.busy = false →
    t.phase = .idle ∧ t.regs.err = !t.regs.done ∧ t.regs.errcode.toNat ≤ 7 ∧ t.lat = s.lat ∧
    SameOutside s.mem t.mem s.lat.dst s.lat.cap

/-! Commands -/

/-- R810, R812: `NOP` and the reserved `OP` 5, 6 and 7 start like every command and end at once, with no memory accessed:
`NOP` completes with the result registers 0, and the others raise `ILLEGAL_COMMAND` (code 7) with info 0. That the error
changes no byte of host memory, where R215 leaves a destination open, is the model's reading of R812 and R201 (log entry
4). -/
def Obligations.NopAndReservedCommandsEndAtOnce : Prop :=
  (∀ s : State, s.phase = .start → s.tainted = false → exec .nop s = .next (s.doneWith 0 false false)) ∧
  (∀ (s : State) (rest : List Input) (v : Word), s.inputs = .regWrite 32 0x04 v :: .engine :: rest →
    s.regs.busy = false → v.extractLsb' 0 3 = 0 →
    ∃ t u, step s = .next t ∧ t.regs.busy = true ∧
      t.lat = { op := 0, level := v.extractLsb' 4 2, src := s.regs.srcAddr, n := s.regs.srcLen, dst := s.regs.dstAddr,
                cap := s.regs.dstCap } ∧
      step t = .next u ∧ u.mem = s.mem ∧ u.inputs = rest ∧ u.phase = .idle ∧ u.regs = { s.regs with
        cmdOp := 0, cmdLevel := v.extractLsb' 4 2
        busy := false, done := true, err := false
        errcode := 0, resultLen := 0, form := false, fallback := false, errOffset := 0 }) ∧
  (∀ (i : Instr) (s : State), i ∈ [Instr.reservedOp5, Instr.reservedOp6, Instr.reservedOp7] → s.phase = .start →
    s.tainted = false → s.lat.op ≠ 1 → s.lat.op ≠ 2 → exec i s = .next (s.erredWith 7 0)) ∧
  (∀ (s : State) (rest : List Input) (v : Word), s.inputs = .regWrite 32 0x04 v :: .engine :: rest →
    s.regs.busy = false → v.extractLsb' 0 3 ∈ [(5 : BitVec 3), 6, 7] →
    ∃ t u, step s = .next t ∧ t.regs.busy = true ∧
      t.lat = { op := v.extractLsb' 0 3, level := v.extractLsb' 4 2, src := s.regs.srcAddr, n := s.regs.srcLen, dst := s.regs.dstAddr,
                cap := s.regs.dstCap } ∧
      step t = .next u ∧ u.mem = s.mem ∧ u.inputs = rest ∧ u.phase = .idle ∧ u.regs = { s.regs with
        cmdOp := v.extractLsb' 0 3, cmdLevel := v.extractLsb' 4 2
        busy := false, done := false, err := true
        errcode := 7, resultLen := 0, form := false, fallback := false, errOffset := 0 })

/-- R801, R804: the start checks of each command in their order; the first that fails raises its error with info 0. `NOP` has
none, and the fourth check of `DECOMPRESS` comes when the header is read. After an error of `COMPRESS` or `DECOMPRESS` every
byte of the destination holds any value, as after every error (R215, U1; log entry 4); nothing else changes. (That the
register `m` keeps its earlier value where the fourth check of `DECOMPRESS` fails is the model's choice: log entry 23.) -/
def Obligations.StartChecksRaiseInOrder : Prop :=
  ∀ (s : State) (level : Level), s.tainted = false →
    let src := s.lat.src.toNat
    let n := s.lat.n.toNat
    let dst := s.lat.dst.toNat
    let cap := s.lat.cap.toNat
    let raises := fun (i : Instr) (code : BitVec 4) => ∃ t, exec i s = .next t ∧ s.ErredAny t code 0
    (s.phase = .start →
      (exec .nop s = .next (s.doneWith 0 false false)) ∧
      (src = 0 → raises (.compress level) 1 ∧ raises .decompress 1) ∧
      (src ≠ 0 → 2147483647 < n → raises (.compress level) 5) ∧
      (src ≠ 0 → n ≤ 2147483647 → BadRanges src n dst cap → raises (.compress level) 6) ∧
      (src ≠ 0 → n ≤ 2147483647 → ¬BadRanges src n dst cap → cap < n + 4 → raises (.compress level) 2) ∧
      (src ≠ 0 → BadRanges src n dst cap → raises .decompress 6) ∧
      (src ≠ 0 → ¬BadRanges src n dst cap → n < 4 → raises .decompress 3) ∧
      (s.lat.op = 3 →
        (src = 0 → exec .getLength s = .next (s.erredWith 1 0)) ∧
        (src ≠ 0 → 2 ^ 32 < src + n → exec .getLength s = .next (s.erredWith 6 0)) ∧
        (src ≠ 0 → src + n ≤ 2 ^ 32 → n < 4 → exec .getLength s = .next (s.erredWith 3 0))) ∧
      (s.lat.op = 4 →
        (src = 0 → exec (.measure level) s = .next (s.erredWith 1 0)) ∧
        (src ≠ 0 → 2147483647 < n → exec (.measure level) s = .next (s.erredWith 5 0)) ∧
        (src ≠ 0 → n ≤ 2147483647 → 2 ^ 32 < src + n → exec (.measure level) s = .next (s.erredWith 6 0)))) ∧
    (s.phase = .header → ∀ h : Word, cap < h.toInt.natAbs →
      (h.toInt < 0 → raises (.hdrStored h) 2) ∧ (0 < h.toInt → raises (.hdrHuffman h) 2))

/-- R806, R801: `GET_LENGTH` makes its start checks in order, and the first that fails raises its error with info 0; if none
does it ends with the magnitude of the header, and `FORM` 1 if the header is positive. It does not use the destination; that
its errors therefore change no byte of host memory is the model's reading of R806 and R201 beside R215 (log entry 4). -/
def Obligations.GetLengthReturnsMagnitude : Prop :=
  ∀ (s : State) (h : Word), s.phase = .start → s.tainted = false → s.lat.op = 3 →
    h.toNat = (s.mem.read s.lat.src).toNat + 2 ^ 8 * (s.mem.read (s.lat.src + 1)).toNat +
      2 ^ 16 * (s.mem.read (s.lat.src + 2)).toNat + 2 ^ 24 * (s.mem.read (s.lat.src + 3)).toNat →
    (s.lat.src = 0 → exec .getLength s = .next (s.erredWith 1 0)) ∧
    (s.lat.src ≠ 0 → 2 ^ 32 < s.lat.src.toNat + s.lat.n.toNat → exec .getLength s = .next (s.erredWith 6 0)) ∧
    (s.lat.src ≠ 0 → s.lat.src.toNat + s.lat.n.toNat ≤ 2 ^ 32 → s.lat.n.toNat < 4 →
      exec .getLength s = .next (s.erredWith 3 0)) ∧
    (s.lat.src ≠ 0 → s.lat.src.toNat + s.lat.n.toNat ≤ 2 ^ 32 → 4 ≤ s.lat.n.toNat →
      exec .getLength s = .next (s.doneWith (BitVec.ofNat 32 h.toInt.natAbs) (decide (0 < h.toInt)) false))

/-- R802: `COMPRESS` of fewer than 4 bytes gives the stored form, `RESULT_LEN` `n + 4`, `FORM` 0 and `FALLBACK` 0, and
changes nothing else. -/
def Obligations.CompressShortInputStores : Prop :=
  ∀ (s : State) (level : Level), s.phase = .start → s.tainted = false → s.lat.src ≠ 0 → s.lat.n.toNat < 4 →
    ¬BadRanges s.lat.src.toNat s.lat.n.toNat s.lat.dst.toNat s.lat.cap.toNat → s.lat.n.toNat + 4 ≤ s.lat.cap.toNat →
    ∃ t, exec (.compress level) s = .next t ∧ StoredAt s t ∧
      t.regs = (s.doneWith (s.lat.n + 4) false false).regs ∧ t.phase = .idle ∧
      KeepsCompressor s t ∧ KeepsCommand s t ∧ t.rd = s.rd ∧ t.dec = s.dec ∧ t.cache = s.cache

/-- R802, R206, R215: `COMPRESS` of 4 bytes or more that passes its checks completes: either in Huffman form, with the
header `n` and a whole number of payload words within the capacity, or, after NoSpace, with the stored form and `FALLBACK`
1. No byte at or above `RESULT_LEN` changes. -/
def Obligations.CompressCompletes : Prop :=
  ∀ (s : State) (level : Level), s.phase = .start → s.tainted = false → s.lat.src ≠ 0 → 4 ≤ s.lat.n.toNat →
    s.lat.n.toNat ≤ 2147483647 → ¬BadRanges s.lat.src.toNat s.lat.n.toNat s.lat.dst.toNat s.lat.cap.toNat →
    s.lat.n.toNat + 4 ≤ s.lat.cap.toNat →
    ∃ t, exec (.compress level) s = .next t ∧ t.phase = .idle ∧ KeepsCommand s t ∧ t.rd = s.rd ∧ t.dec = s.dec ∧
      ((∃ words, 4 * words ≤ s.lat.n.toNat ∧
          t.regs = (s.doneWith (BitVec.ofNat 32 (4 + 4 * words)) true false).regs ∧
          (∀ j, j < 4 → t.mem.read (s.lat.dst + BitVec.ofNat 32 j) = s.lat.n.extractLsb' (8 * j) 8) ∧
          SameExcept s.mem t.mem s.lat.dst (4 + 4 * words)) ∨
        (t.regs = (s.doneWith (s.lat.n + 4) false true).regs ∧ StoredAt s t))

/-- R808: `MEASURE` that passes its checks completes with a size of at most `n + 4`, and writes no host memory. -/
def Obligations.MeasureCompletes : Prop :=
  ∀ (s : State) (level : Level), s.phase = .start → s.tainted = false → s.lat.src ≠ 0 →
    s.lat.n.toNat ≤ 2147483647 → s.lat.src.toNat + s.lat.n.toNat ≤ 2 ^ 32 →
    ∃ t, exec (.measure level) s = .next t ∧ t.phase = .idle ∧ t.mem = s.mem ∧ KeepsCommand s t ∧ t.rd = s.rd ∧
      t.dec = s.dec ∧
      (s.lat.n.toNat < 4 → t = s.doneWith (s.lat.n + 4) false false) ∧
      (4 ≤ s.lat.n.toNat →
        (∃ words, 4 * words ≤ s.lat.n.toNat ∧
          t.regs = (s.doneWith (BitVec.ofNat 32 (4 + 4 * words)) true false).regs) ∨
        t.regs = (s.doneWith (s.lat.n + 4) false true).regs)

/-- R809: for the same source bytes, `n` and `LEVEL`, `MEASURE` ends with the `RESULT_LEN` and `RESULT_INFO` that `COMPRESS`
ends with, whatever else the two states hold, and makes no memory write. -/
def Obligations.MeasureAgreesWithCompress : Prop :=
  ∀ (s u : State) (level : Level), s.phase = .start → s.tainted = false → u.phase = .start → u.tainted = false →
    s.lat.checkCompress = none → u.lat.checkMeasure = none → u.lat.n = s.lat.n →
    (∀ j, j < s.lat.n.toNat → u.mem.read (u.lat.src + BitVec.ofNat 32 j) = s.mem.read (s.lat.src + BitVec.ofNat 32 j)) →
    ∃ t v, exec (.compress level) s = .next t ∧ exec (.measure level) u = .next v ∧
      v.regs.resultLen = t.regs.resultLen ∧ v.regs.form = t.regs.form ∧ v.regs.fallback = t.regs.fallback ∧
      v.mem = u.mem

/-- R954, R961: what `COMPRESS` gives depends only on the source bytes, `n` and `LEVEL`: two states that agree on them end
with the same result registers and the same result bytes, whatever an earlier command left in the internal memories. -/
def Obligations.CompressIgnoresEarlierState : Prop :=
  ∀ (s u : State) (level : Level), s.phase = .start → s.tainted = false → u.phase = .start → u.tainted = false →
    s.lat.checkCompress = none → u.lat.checkCompress = none → u.lat.n = s.lat.n →
    (∀ j, j < s.lat.n.toNat → u.mem.read (u.lat.src + BitVec.ofNat 32 j) = s.mem.read (s.lat.src + BitVec.ofNat 32 j)) →
    ∃ t v, exec (.compress level) s = .next t ∧ exec (.compress level) u = .next v ∧
      v.regs.resultLen = t.regs.resultLen ∧ v.regs.form = t.regs.form ∧ v.regs.fallback = t.regs.fallback ∧
      ∀ j, j < t.regs.resultLen.toNat →
        v.mem.read (u.lat.dst + BitVec.ofNat 32 j) = t.mem.read (s.lat.dst + BitVec.ofNat 32 j)

/-- R803, R802, R701: `DECOMPRESS` of what `COMPRESS` gives, at any level, completes with the source bytes, their number, and
the form that `COMPRESS` reported; so the payload words stand for exactly the source. The decompressor may stand anywhere
and hold anything that an earlier command left. -/
def Obligations.CompressedBufferDecompresses : Prop :=
  ∀ (s : State) (level : Level), s.phase = .start → s.tainted = false → s.lat.checkCompress = none →
    ∃ t, exec (.compress level) s = .next t ∧
      ∀ u : State, u.phase = .start → u.tainted = false → u.DecodeInv → u.lat.op = 2 → u.lat.checkDecompress = none →
        u.lat.n = t.regs.resultLen → s.lat.n.toNat ≤ u.lat.cap.toNat →
        (∀ j, j < t.regs.resultLen.toNat →
          u.mem.read (u.lat.src + BitVec.ofNat 32 j) = t.mem.read (s.lat.dst + BitVec.ofNat 32 j)) →
        ∃ k v, engineTurns k u = .next v ∧ v.phase = .idle ∧ v.regs = (u.doneWith s.lat.n t.regs.form false).regs ∧
          ∀ j, j < s.lat.n.toNat →
            v.mem.read (u.lat.dst + BitVec.ofNat 32 j) = s.mem.read (s.lat.src + BitVec.ofNat 32 j)

/-- R804, R700: `DECOMPRESS` that passes its first three checks sets `out` to 0, empties the cache and goes to the header;
nothing else changes. -/
def Obligations.DecompressReadsHeaderNext : Prop :=
  ∀ s : State, s.phase = .start → s.tainted = false → s.lat.src ≠ 0 →
    ¬BadRanges s.lat.src.toNat s.lat.n.toNat s.lat.dst.toNat s.lat.cap.toNat → 4 ≤ s.lat.n.toNat →
    exec .decompress s = .next { s with
      dec := { s.dec with out := 0 }, cache := { r0 := 0, r1 := 0, r2 := 0 }, phase := .header }

/-! The header and the blocks -/

/-- R701: a stored form, `h` negative or 0, copies the `m = -h` payload bytes and completes with `RESULT_LEN` `m` and `FORM` 0;
a payload shorter than `m` raises `TRUNCATED_INPUT` with info 4. -/
def Obligations.StoredHeaderCopiesPayload : Prop :=
  ∀ (s : State) (h : Word) (i : Instr),
    (h = 0 ∧ i = .hdrStoredEmpty) ∨ (h.toInt < 0 ∧ i = .hdrStored h) →
    s.phase = .header → s.DstInv → s.tainted = false → h.toInt.natAbs ≤ s.lat.cap.toNat →
    (h.toInt.natAbs ≤ s.lat.n.toNat - 4 →
      ∃ t, exec i s = .next t ∧ t.phase = .idle ∧ t.regs = (s.doneWith (-h) false false).regs ∧
        (∀ j, j < h.toInt.natAbs →
          t.mem.read (s.lat.dst + BitVec.ofNat 32 j) = s.mem.read (s.lat.src + BitVec.ofNat 32 (4 + j))) ∧
        SameExcept s.mem t.mem s.lat.dst h.toInt.natAbs ∧
        t.dec = { s.dec with m := -h, out := -h } ∧ t.rd = s.rd ∧ t.cache = s.cache ∧
        KeepsCompressor s t ∧ KeepsCommand s t) ∧
    (s.lat.n.toNat - 4 < h.toInt.natAbs → ∃ t, exec i s = .next t ∧ s.ErredDecode t 3 4)

/-- R701, R650: a Huffman form, `h` positive and within the capacity, sets `m`, initialises the bit reader and goes to the
first block; nothing else changes. -/
def Obligations.HuffmanHeaderStartsBlocks : Prop :=
  ∀ (s : State) (h : Word), 0 < h.toInt → s.phase = .header → h.toNat ≤ s.lat.cap.toNat → s.dec.out = 0 →
    exec (.hdrHuffman h) s = .next { s with
      dec := { s.dec with m := h }
      rd := { acc := 0, k := 0, rp := 0, len := s.lat.n - 4, base := s.lat.src + 4 }
      phase := .block }

/-- R703, R653: a stored block of `k = min(8192 + extraLen, m - out)` bytes copies them from the next byte boundary of the
stream and does not touch the cache; a payload that ends first raises `TRUNCATED_INPUT` at the missing word. -/
def Obligations.StoredBlockCopiesAlignedBytes : Prop :=
  ∀ s : State, s.phase = .block → s.DstInv → s.tainted = false → s.readerReady →
    let pos := s.rd.position
    let start := alignUp (pos + 8)
    let k := min (8192 + streamNat s.mem s.rd.base pos 8) (s.dec.m.toNat - s.dec.out.toNat)
    (start + 8 * k ≤ s.rd.bits →
      ∃ t, exec .storedBlock s = .next t ∧
        (∀ j, j < k → t.mem.read (s.lat.dst + s.dec.out + BitVec.ofNat 32 j) =
          s.mem.read (s.rd.base + BitVec.ofNat 32 (start / 8 + j))) ∧
        SameExcept s.mem t.mem (s.lat.dst + s.dec.out) k ∧
        t.dec = { s.dec with out := s.dec.out + BitVec.ofNat 32 k } ∧ t.cache = s.cache ∧
        t.rd.position = start + 8 * k ∧ t.rd.Coherent s.mem ∧ t.rd.base = s.rd.base ∧ t.rd.len = s.rd.len ∧
        BlockNext s t (s.dec.out.toNat + k) ∧ KeepsCompressor s t ∧ KeepsCommand s t) ∧
    (s.rd.bits < start + 8 * k →
      ∃ t, exec .storedBlock s = .next t ∧ s.ErredDecode t 3 (offsetAt s.rd.bits))

/-- R704, R705, R707: a compressed block reads 20 lengths of 3 bits and the literal count; if the lengths are a complete code
the code-length tree is built from them and the first sequence begins, and if not it is `CORRUPT_INPUT`. A payload that ends
first raises `TRUNCATED_INPUT`. Memory and the output do not change. -/
def Obligations.CompressedBlockReadsCodeLengthTable : Prop :=
  ∀ s : State, s.phase = .block → s.tainted = false → s.readerReady →
    let pos := s.rd.position
    let lens := (List.range 20).map (fun t => streamNat s.mem s.rd.base (pos + 3 * t) 3)
    (pos + 66 ≤ s.rd.bits → kraftOf 7 lens = 2 ^ 7 →
      ∃ t tree, exec .compressedBlock s = .next t ∧ buildTree lens 20 7 = some tree ∧
        t = { s with
          dec := { s.dec with lensCl := lens.map (BitVec.ofNat 4), clTree := tree }
          rd := t.rd
          phase := .rle .literal (257 + streamNat s.mem s.rd.base (pos + 60) 6) 0 } ∧
        t.rd.position = pos + 66 ∧ t.rd.Coherent s.mem ∧ t.rd.base = s.rd.base ∧ t.rd.len = s.rd.len) ∧
    (pos + 60 ≤ s.rd.bits → kraftOf 7 lens ≠ 2 ^ 7 →
      ∃ t, exec .compressedBlock s = .next t ∧ s.ErredDecode t 4 (offsetAt (pos + 60))) ∧
    (s.rd.bits < pos + 60 ∨ (s.rd.bits < pos + 66 ∧ kraftOf 7 lens = 2 ^ 7) →
      ∃ t, exec .compressedBlock s = .next t ∧ s.ErredDecode t 3 (offsetAt s.rd.bits))

/-! Code-length tokens -/

/-- R706, R310: a code-length token before the end of its sequence: `CL_LEN_0` to `CL_LEN_14` write one length, and the five
repeat tokens copy the last length written 2, 3 or 4, 5 to 8, 9 to 16, or 17 to 144 times; the index moves past them and
nothing else changes. All 20 code-length instructions. -/
def Obligations.CodeLengthTokenExtendsSequence : Prop :=
  ∀ (i : Instr) (s : State) (q : RleSeq) (count j : Nat), (encode i).fmt = .clsym → s.phase = .rle q count j →
    count ≤ (s.dec.lensFor q).length →
    let t := (encode i).sym
    let r := [2, 3, 5, 9, 17].getD (t - 15) 0 + (encode i).x
    (t ≤ 14 → j + 1 < count →
      exec i s = .next { s with
        dec := s.dec.setLens q ((s.dec.lensFor q).set j (BitVec.ofNat 4 t)), phase := .rle q count (j + 1) }) ∧
    (15 ≤ t → 0 < j → j + r < count →
      ∃ lens, exec i s = .next { s with dec := s.dec.setLens q lens, phase := .rle q count (j + r) } ∧
        lens.length = (s.dec.lensFor q).length ∧
        ∀ a, lens.getD a 0 =
          if j ≤ a ∧ a < j + r then (s.dec.lensFor q).getD (j - 1) 0 else (s.dec.lensFor q).getD a 0)

/-- R706, R315: a repeat token with no previous length, or past the count, raises `CORRUPT_INPUT` with the offset `4 + rp`.
All five repeat instructions. -/
def Obligations.CodeLengthRepeatRejected : Prop :=
  ∀ (i : Instr) (s : State) (q : RleSeq) (count j : Nat), (encode i).fmt = .clsym → 15 ≤ (encode i).sym →
    s.phase = .rle q count j → s.tainted = false →
    j = 0 ∨ count < j + ([2, 3, 5, 9, 17].getD ((encode i).sym - 15) 0 + (encode i).x) →
    ∃ t, exec i s = .next t ∧ s.ErredDecode t 4 (4 + s.rd.rp)

/-- R707, R708, R710: the code-length token that completes a sequence. The lengths past the count are 0 and the tree is
built from them if they are a complete code (else `CORRUPT_INPUT`): after the literal sequence the distance count is read
and the distance sequence begins, and after the distance sequence the data symbols begin. All 20 code-length
instructions. -/
def Obligations.CodeLengthSequenceEndBuildsTree : Prop :=
  ∀ (i : Instr) (s : State) (q : RleSeq) (count j : Nat), (encode i).fmt = .clsym → s.phase = .rle q count j →
    s.DstInv → s.tainted = false → s.readerReady → count ≤ (s.dec.lensFor q).length → j < count →
    (∀ a, a < j → ((s.dec.lensFor q).getD a 0).toNat ≤ 14) →
    let t := (encode i).sym
    let r := if t ≤ 14 then 1 else [2, 3, 5, 9, 17].getD (t - 15) 0 + (encode i).x
    let v := if t ≤ 14 then BitVec.ofNat 4 t else (s.dec.lensFor q).getD (j - 1) 0
    let n := match q with
      | .literal => 320
      | .distance => 64
    let lens := (s.dec.lensFor q).take j ++ List.replicate r v ++ List.replicate (n - count) 0
    (t ≤ 14 ∨ 0 < j) → j + r = count →
    (kraftOf 14 (lens.map BitVec.toNat) ≠ 2 ^ 14 → ∃ u, exec i s = .next u ∧ s.ErredDecode u 4 (4 + s.rd.rp)) ∧
    (kraftOf 14 (lens.map BitVec.toNat) = 2 ^ 14 → q = .distance →
      ∃ tree, buildTree (lens.map BitVec.toNat) 64 14 = some tree ∧
        exec i s = .next { s with
          dec := { s.dec with lensDist := lens, distTree := tree, bsym := 0 }, phase := .symbol }) ∧
    (kraftOf 14 (lens.map BitVec.toNat) = 2 ^ 14 → q = .literal → s.rd.position + 6 ≤ s.rd.bits →
      ∃ tree rd, buildTree (lens.map BitVec.toNat) 320 14 = some tree ∧
        exec i s = .next { s with
          dec := { s.dec with lensLit := lens, litTree := tree }
          rd := rd
          phase := .rle .distance (1 + streamNat s.mem s.rd.base s.rd.position 6) 0 } ∧
        rd.position = s.rd.position + 6 ∧ rd.Coherent s.mem ∧ rd.base = s.rd.base ∧ rd.len = s.rd.len) ∧
    (kraftOf 14 (lens.map BitVec.toNat) = 2 ^ 14 → q = .literal → s.rd.bits < s.rd.position + 6 →
      ∃ u, exec i s = .next u ∧ s.ErredDecode u 3 (offsetAt s.rd.bits))

/-! Literals, lengths and distances -/

/-- R754, R710: a literal writes its byte at the next output position, which lies inside the destination; the loop then goes
on, ends the block or completes the command. -/
def Obligations.LiteralWritesOneByte : Prop :=
  ∀ (b : Byte) (s : State), s.phase = .symbol → s.DstInv → s.tainted = false → s.dec.bsym.toNat < 8192 →
    inRange (s.lat.dst + s.dec.out) s.lat.dst s.lat.cap = true ∧
    ∃ t, exec (.lit b) s = .next t ∧ t.mem.read (s.lat.dst + s.dec.out) = b ∧
      (∀ x, x ≠ s.lat.dst + s.dec.out → t.mem.read x = s.mem.read x) ∧
      t.dec = { s.dec with out := s.dec.out + 1, bsym := s.dec.bsym + 1 } ∧
      SymbolNext s t (s.dec.out.toNat + 1) (s.dec.bsym.toNat + 1) ∧
      t.rd = s.rd ∧ t.cache = s.cache ∧ KeepsCompressor s t ∧ KeepsCommand s t

/-- R755, R710: a length token selects the match length `LEN_BASE[i] + x`, counts as one symbol, and the distance symbol is
next; nothing else changes. All 64 length instructions. -/
def Obligations.LengthTokenSelectsLength : Prop :=
  ∀ (i : Instr) (s : State), (encode i).fmt = .llsym → 256 ≤ (encode i).sym → s.phase = .symbol →
    exec i s = .next { s with
      dec := { s.dec with bsym := s.dec.bsym + 1 }
      phase := .dist (lenBase ((encode i).sym - 256) + (encode i).x) }

/-- R756, R461, R758, R759: `REP0`, `REP1` and `REP2` copy from the distance of their cache entry and promote it (code 1 swaps,
code 2 rotates); an empty entry raises `CORRUPT_INPUT`. -/
def Obligations.RepTokenCopiesCachedDistance : Prop :=
  ∀ (i : Instr) (s : State) (len : Nat), i ∈ [Instr.rep0, Instr.rep1, Instr.rep2] → s.phase = .dist len →
    s.DstInv → s.tainted = false →
    let r := if i = .rep0 then s.cache.r0 else if i = .rep1 then s.cache.r1 else s.cache.r2
    let d := r.toNat
    (d = 0 → ∃ t, exec i s = .next t ∧ s.ErredDecode t 4 (4 + s.rd.rp)) ∧
    (0 < d → d ≤ s.dec.out.toNat → len ≤ s.dec.m.toNat - s.dec.out.toNat →
      ∃ t, exec i s = .next t ∧
        (∀ j, j < len → t.mem.read (s.lat.dst + BitVec.ofNat 32 (s.dec.out.toNat + j)) =
          s.mem.read (s.lat.dst + BitVec.ofNat 32 (s.dec.out.toNat - d + j % d))) ∧
        SameExcept s.mem t.mem (s.lat.dst + s.dec.out) len ∧
        t.dec = { s.dec with out := s.dec.out + BitVec.ofNat 32 len } ∧
        t.cache = (if i = .rep0 then s.cache
          else if i = .rep1 then { r0 := s.cache.r1, r1 := s.cache.r0, r2 := s.cache.r2 }
          else { r0 := s.cache.r2, r1 := s.cache.r0, r2 := s.cache.r1 }) ∧
        SymbolNext s t (s.dec.out.toNat + len) s.dec.bsym.toNat ∧
        t.rd = s.rd ∧ KeepsCompressor s t ∧ KeepsCommand s t)

/-- R757, R461, R759: `DIST_3` to `DIST_63` copy from the distance `DIST_BASE[c] + x` and push it on the cache. All 61 fresh
distance instructions. -/
def Obligations.FreshDistanceCopies : Prop :=
  ∀ (i : Instr) (s : State) (len : Nat), (encode i).fmt = .dsym → 3 ≤ (encode i).sym → s.phase = .dist len →
    s.DstInv → s.tainted = false →
    let d := distBase (encode i).sym + (encode i).x
    d ≤ s.dec.out.toNat → len ≤ s.dec.m.toNat - s.dec.out.toNat →
    ∃ t, exec i s = .next t ∧
      (∀ j, j < len → t.mem.read (s.lat.dst + BitVec.ofNat 32 (s.dec.out.toNat + j)) =
        s.mem.read (s.lat.dst + BitVec.ofNat 32 (s.dec.out.toNat - d + j % d))) ∧
      SameExcept s.mem t.mem (s.lat.dst + s.dec.out) len ∧
      t.dec = { s.dec with out := s.dec.out + BitVec.ofNat 32 len } ∧
      t.cache = { r0 := BitVec.ofNat 20 d, r1 := s.cache.r0, r2 := s.cache.r1 } ∧
      SymbolNext s t (s.dec.out.toNat + len) s.dec.bsym.toNat ∧
      t.rd = s.rd ∧ KeepsCompressor s t ∧ KeepsCommand s t

/-- R758: a distance before the start of the output, or a length past the declared length, raises `CORRUPT_INPUT` with the
offset `4 + rp` before any byte is written: the output position is the one before the token. All 64 distance
instructions. (That the position is still to be seen after the command has ended is the model's: log entry 23.) -/
def Obligations.DistanceTokenRejected : Prop :=
  ∀ (i : Instr) (s : State) (len : Nat), (encode i).fmt = .dsym → s.phase = .dist len → s.tainted = false →
    let c := (encode i).sym
    let d := if c = 0 then s.cache.r0.toNat else if c = 1 then s.cache.r1.toNat else if c = 2 then s.cache.r2.toNat
      else distBase c + (encode i).x
    s.dec.out.toNat < d ∨ s.dec.m.toNat - s.dec.out.toNat < len →
    ∃ t, exec i s = .next t ∧ s.ErredDecode t 4 (4 + s.rd.rp) ∧ t.dec.out = s.dec.out

/-- R759: the overlap copy is the forward bytewise loop, so it repeats the last `d` bytes periodically; no other byte
changes. -/
def Obligations.OverlapCopyIsPeriodic : Prop :=
  ∀ (s : State) (len d : Nat), 0 < d → d ≤ s.dec.out.toNat → s.dec.out.toNat + len ≤ 2 ^ 32 →
    (∀ j, j < len → (s.copyMatch len d).mem.read (s.lat.dst + BitVec.ofNat 32 (s.dec.out.toNat + j)) =
      s.mem.read (s.lat.dst + BitVec.ofNat 32 (s.dec.out.toNat - d + j % d))) ∧
    (∀ j, j < len → (s.copyMatch len d).mem.read (s.lat.dst + BitVec.ofNat 32 (s.dec.out.toNat + j)) =
      (s.copyMatch len d).mem.read (s.lat.dst + BitVec.ofNat 32 (s.dec.out.toNat + j - d))) ∧
    SameExcept s.mem (s.copyMatch len d).mem (s.lat.dst + s.dec.out) len ∧
    (s.copyMatch len d).dec.out = s.dec.out + BitVec.ofNat 32 len

/-! Fetching and encoding -/

/-- R314, R800, R701, R702, R706, R752: the engine's turn runs the instruction that its state and the bits before it decode
to: the latched command, the header, a block type, or a token of the tree that the state selects, read from the stream with
its extra bits; the idle engine waits. The turn adds nothing around the instruction but the use of its input entry, the
count of accesses made, which starts again at 0, and the use of the stream bits. A repeat token with no previous length has
its extra bits left unread and runs with the extra value 0, since R706 rejects it before they are read (log entry 22). -/
def Obligations.StepRunsDecodedInstruction : Prop :=
  ∀ s : State, s.engineTurn →
    (s.phase = .idle → step s = .next s.taken) ∧
    (s.phase = .start →
      step s = exec (decodeCommand (s.lat.op.setWidth 32 ||| (s.lat.level.setWidth 32 <<< 4))) s.taken) ∧
    (s.phase = .header → step s = exec (decodeHeader (s.mem.readWord s.lat.src)) s.taken) ∧
    (s.phase = .block → ∀ b r i, getBits s.mem 1 s.rd = .ok (b, r) → decodeSym .btype b 0 = .ok i →
      step s = exec i { s.taken with rd := r }) ∧
    (∀ q count j sym x r1 r2 i, s.phase = .rle q count j → getCode s.mem s.dec.clTree s.rd = .ok (sym, r1) →
      getBits s.mem (if 15 ≤ sym ∧ j = 0 then 0 else extraBits .clsym sym) r1 = .ok (x, r2) →
      decodeSym .clsym sym x = .ok i → step s = exec i { s.taken with rd := r2 }) ∧
    (∀ sym x r1 r2 i, s.phase = .symbol → getCode s.mem s.dec.litTree s.rd = .ok (sym, r1) →
      getBits s.mem (extraBits .llsym sym) r1 = .ok (x, r2) → decodeSym .llsym sym x = .ok i →
      step s = exec i { s.taken with rd := r2 }) ∧
    (∀ len sym x r1 r2 i, s.phase = .dist len → getCode s.mem s.dec.distTree s.rd = .ok (sym, r1) →
      getBits s.mem (extraBits .dsym sym) r1 = .ok (x, r2) → decodeSym .dsym sym x = .ok i →
      step s = exec i { s.taken with rd := r2 })

/-- R958, R205, R211, R214: a command's work is also a finite sequence of steps of at most one access of host memory each, of
which the last one updates the registers. It ends where the instruction as a whole does. What the steps are is the model's
reading of R958 (log entry 1). The commands. -/
def Obligations.TicksRunCommand : Prop :=
  ∀ s t : State, s.phase = .start → s.tainted = false → s.made = 0 →
    step { s with inputs := .engine :: s.inputs } = .next t → TicksReach s t

/-- R958, R205, R211, R903: the same for the header, the blocks and the tokens of DECOMPRESS. -/
def Obligations.TicksRunDecoding : Prop :=
  ∀ s t : State, s.phase ≠ .start → s.DstInv → s.StreamInv → s.tainted = false → s.made = 0 →
    step { s with inputs := .engine :: s.inputs } = .next t → TicksReach s t

/-- R652, R901, R752: a step that needs a stream bit past the last whole payload word raises `TRUNCATED_INPUT` with the offset
of the missing word: where no bit is left, and where a token runs out in the middle of its code or of its extra bits, that is,
where the bits left are the first bits of the code of a symbol whose code and extra bits do not all fit. -/
def Obligations.MissingPayloadWordTruncates : Prop :=
  (∀ s : State, s.engineTurn → s.tainted = false → s.readerReady → s.rd.position = s.rd.bits →
    (s.phase = .block ∨ (∃ q count j, s.phase = .rle q count j) ∨ s.phase = .symbol ∨ ∃ len, s.phase = .dist len) →
    ∃ t, step s = .next t ∧ s.taken.ErredDecode t 3 (offsetAt s.rd.bits)) ∧
  (∀ (s : State) (lens : List Nat) (n lmax sym extra : Nat) (tree : List Slot),
    s.engineTurn → s.tainted = false → s.readerReady → s.rd.position ≤ s.rd.bits →
    (∃ q count j, s.phase = .rle q count j ∧ tree = s.dec.clTree ∧ n = 20 ∧ lmax = 7 ∧
      extra = if 15 ≤ sym ∧ j = 0 then 0 else extraBits .clsym sym) ∨
    (s.phase = .symbol ∧ tree = s.dec.litTree ∧ n = 320 ∧ lmax = 14 ∧ extra = extraBits .llsym sym) ∨
    (∃ len, s.phase = .dist len ∧ tree = s.dec.distTree ∧ n = 64 ∧ lmax = 14 ∧ extra = extraBits .dsym sym) →
    CompleteCode lens n lmax → buildTree lens n lmax = some tree → sym < n → 0 < lens.getD sym 0 →
    (∀ j, j < lens.getD sym 0 → s.rd.position + j < s.rd.bits →
      streamBit s.mem s.rd.base (s.rd.position + j) = ((reversedCodes lens lmax).getD sym 0).testBit j) →
    s.rd.bits < s.rd.position + lens.getD sym 0 + extra →
    ∃ t, step s = .next t ∧ s.taken.ErredDecode t 3 (offsetAt s.rd.bits))

/-- R301 to R312: decoding the encoding of a well-formed instruction gives it back, as a word and as bytes, for every
instruction and every operand value. -/
def Obligations.DecodeOfEncode : Prop :=
  ∀ i : Instr, i.wellFormed = true →
    decodeWord (encode i).fmt (encodeWord i) = .ok i ∧ decodeBytes (encode i).fmt (encodeBytes i) = .ok i

/-- R301 to R312: a word of any format but the command word, whose reserved bits are ignored (R301), has one meaning: what
decodes is well-formed and encodes to that word and that format. -/
def Obligations.EncodeOfDecode : Prop :=
  ∀ (f : Format) (w : Nat) (i : Instr), f ≠ .cmdw → decodeWord f w = .ok i →
    i.wellFormed = true ∧ (encode i).fmt = f ∧ encodeWord i = w

/-- R301, R302, R305, R310, R311, R312: a few words written out from the spec's encodings decode to the instructions they
stand for. -/
def Obligations.SampleWordsDecode : Prop :=
  decodeWord .cmdw 0x21 = .ok (.compress .normal) ∧ decodeWord .cmdw 0xC1 = .ok (.compress .fastest) ∧
  decodeWord .hdr 0xFFFFFFFD = .ok (.hdrStored 0xFFFFFFFD) ∧ decodeWord .hdr 200 = .ok (.hdrHuffman 200) ∧
  decodeWord .btype 1 = .ok .compressedBlock ∧ decodeWord .clsym 0xA53 = .ok (.clRep17_144 82) ∧
  decodeWord .llsym 0x61 = .ok (.lit 0x61) ∧ decodeWord .llsym 0x539 = .ok (.len57 2) ∧
  decodeWord .dsym 1 = .ok .rep1 ∧ decodeWord .dsym 0x95 = .ok (.dist21 2) ∧
  decodeWord .clsym 20 = .error (.reservedCodeLengthSymbol 20)

/-! The symbol maps and the cache -/

/-- R450, R455: the length bands are contiguous from 3 to 17,010, with extra bits 0×16, 1×16, 2×16, 3×8, 4×4, 6×2, 8×1,
14×1; the distance codes 0 to 2 have no extra bits, 3 and 4 are exact, and the bands of 5 to 63 (four codes for each
extra-bit count 0 to 12, then 15 ×3, 16 ×2, 17 ×2) are contiguous up to 524,288. -/
def Obligations.SymbolTablesAreContiguous : Prop :=
  (lenBase 0 = 3 ∧ (∀ i, i < 63 → lenBase (i + 1) = lenBase i + 2 ^ lenExtra i) ∧
    lenBase 63 + 2 ^ lenExtra 63 - 1 = 17010 ∧
    (List.range 64).map lenExtra =
      List.replicate 16 0 ++ List.replicate 16 1 ++ List.replicate 16 2 ++ List.replicate 8 3 ++ List.replicate 4 4 ++
        List.replicate 2 6 ++ [8, 14]) ∧
  ((∀ c, c < 3 → distExtra c = 0) ∧ (distBase 3 = 3 ∧ distExtra 3 = 0) ∧ (distBase 4 = 4 ∧ distExtra 4 = 0) ∧
    (∀ e, e < 13 → ∀ j, j < 4 →
      distExtra (5 + 4 * e + j) = e ∧ distBase (5 + 4 * e + j) = 2 ^ (e + 2) + 1 + j * 2 ^ e) ∧
    (List.range 7).map (fun k => distExtra (57 + k)) = [15, 15, 15, 16, 16, 17, 17] ∧
    (∀ c, 3 ≤ c → c < 63 → distBase (c + 1) = distBase c + 2 ^ distExtra c) ∧
    distBase 63 + 2 ^ distExtra 63 - 1 = 524288)

/-- R451, R456: `LenCode(L)` is the largest code whose base is at most `L`, with the rest as its extra value, and it is a
monotonic bijection between the lengths 3 to 17,010 and the pairs of the table. `DistCode(d)` is the largest code of 3 to 63
whose base is at most `d`, with the rest as its extra value, and it is a bijection between the distances 3 to 524,288 and
the pairs of the table. -/
def Obligations.SymbolCodesAreBijections : Prop :=
  (∀ len, 3 ≤ len → len ≤ 17010 →
    (lenCode len).1 < 64 ∧ lenBase (lenCode len).1 ≤ len ∧ (∀ j, j < 64 → lenBase j ≤ len → j ≤ (lenCode len).1) ∧
    (lenCode len).2 < 2 ^ lenExtra (lenCode len).1 ∧ lenBase (lenCode len).1 + (lenCode len).2 = len) ∧
  (∀ i x, i < 64 → x < 2 ^ lenExtra i → lenCode (lenBase i + x) = (i, x)) ∧
  (∀ a b, 3 ≤ a → a ≤ b → b ≤ 17010 → (lenCode a).1 ≤ (lenCode b).1) ∧
  (∀ d, 3 ≤ d → d ≤ 524288 →
    3 ≤ (distCode d).1 ∧ (distCode d).1 < 64 ∧ distBase (distCode d).1 ≤ d ∧
    (∀ j, 3 ≤ j → j < 64 → distBase j ≤ d → j ≤ (distCode d).1) ∧
    (distCode d).2 < 2 ^ distExtra (distCode d).1 ∧ distBase (distCode d).1 + (distCode d).2 = d) ∧
  (∀ c x, 3 ≤ c → c < 64 → x < 2 ^ distExtra c → distCode (distBase c + x) = (c, x))

/-- R460, R461, R463: the decoder's `UnmapDist` gives back the distance that the encoder's `MapDist` coded and the same cache,
and the encoder's cache invariant is kept. -/
def Obligations.UnmapDistInvertsMapDist : Prop :=
  ∀ (c : Cache) (d : Nat), c.Ok → 3 ≤ d → d ≤ 524288 →
    unmapDist c (mapDist c d).1.1 (mapDist c d).1.2 = some (d, (mapDist c d).2) ∧ (mapDist c d).2.Ok ∧
    (mapDist c d).1.1 < 64 ∧ (mapDist c d).1.2 < 2 ^ distExtra (mapDist c d).1.1

/-! The bit writer and the bit reader -/

/-- R602, R605: `EmitWord` signals NoSpace, with nothing changed, when the word would end past the capacity; else it counts
the word and, in write mode only, stores its four bytes little-endian. -/
def Obligations.EmitWordRespectsCapacity : Prop :=
  ∀ (v : Word) (w : Work),
    (w.wr.cap.toNat < 4 * (w.wr.wwords.toNat + 1) → emitWord v w = .noSpace w) ∧
    (4 * (w.wr.wwords.toNat + 1) ≤ w.wr.cap.toNat →
      ∃ mem, emitWord v w = .ok { w with mem := mem, wr := { w.wr with words := w.wr.words + 1 } } ∧
        (w.wr.mode = .measure → mem = w.mem) ∧
        (w.wr.mode = .write →
          (∀ j, j < 4 → mem.read (w.wr.base + BitVec.ofNat 32 (4 * w.wr.wwords.toNat) + BitVec.ofNat 32 j) =
            v.extractLsb' (8 * j) 8) ∧
          SameExcept w.mem mem (w.wr.base + BitVec.ofNat 32 (4 * w.wr.wwords.toNat)) 4))

/-- R601, R606: `PutBits(v, k)` appends the `k` bits of `v` to the stream, `v[0]` first, after the bits already there, which do
not change; if it signals NoSpace the writer is left as it was. -/
def Obligations.PutBitsAppendsToStream : Prop :=
  ∀ (v k : Nat) (w : Work), w.wr.Clean → w.wr.mode = .write → k ≤ 32 → v < 2 ^ k →
    (w.wr.k.toNat + k < 32 ∨ 4 * (w.wr.wwords.toNat + 1) ≤ w.wr.cap.toNat →
      ∃ w', putBits v k w = .ok w' ∧ w'.wr.Clean ∧ w'.wr.position = w.wr.position + k ∧
        (∀ b, b < w.wr.position → w'.bit b = w.bit b) ∧ (∀ j, j < k → w'.bit (w.wr.position + j) = v.testBit j)) ∧
    (32 ≤ w.wr.k.toNat + k → w.wr.cap.toNat < 4 * (w.wr.wwords.toNat + 1) → putBits v k w = .noSpace w)

/-- R556, R558: `CompressedCost` and `StoredCost` are the exact bit counts of the blocks that `EmitCompressed` and
`EmitStored` write. -/
def Obligations.BlockCostsAreExact : Prop :=
  ∀ (e : Source) (w w' : Work),
    (w.counted → emitCompressed w = .ok w' → w'.wr.position = w.wr.position + compressedCost w) ∧
    (emitStored e w = .ok w' → w'.wr.position = w.wr.position + storedCost w)

/-- R651, R652: `GetBits(k)` returns the next `k` stream bits and moves past them; if the payload's whole words do not hold
them it raises `TRUNCATED_INPUT` with the offset of the missing word. -/
def Obligations.GetBitsReadsStream : Prop :=
  ∀ (mem : Memory) (r : Reader) (k : Nat), r.Coherent mem → k ≤ 32 →
    (r.position + k ≤ r.bits →
      ∃ r', getBits mem k r = .ok (streamNat mem r.base r.position k, r') ∧ r'.position = r.position + k ∧
        r'.Coherent mem ∧ r'.base = r.base ∧ r'.len = r.len) ∧
    (r.bits < r.position + k → getBits mem k r = .error (.error .truncatedInput (offsetAt r.bits)))

/-! The match finder and the Huffman builder -/

/-- R406: `MatchLen(c, q, limit)` is the largest `L ≤ limit` with `src[c + i] = src[q + i]` for all `i < L`. -/
def Obligations.MatchLenIsLongest : Prop :=
  ∀ (e : Source) (c q limit : Nat),
    matchLen e c q limit ≤ limit ∧ (∀ i, i < matchLen e c q limit → e.src (c + i) = e.src (q + i)) ∧
    (∀ len, len ≤ limit → (∀ i, i < len → e.src (c + i) = e.src (q + i)) → len ≤ matchLen e c q limit)

/-- R402 to R405, R408: what `Find(q)` answers is a real match that the near-match rule accepts, within the window and the
source, whatever the tables hold, stale entries of an earlier command among them. `Find` inserts `q`: with three bytes to hash
the head of its hash bucket becomes `q`, the chain slot of `q` gets the head that was there, and every other entry of `HEAD`
and `CHAIN` is as before; without them both tables are as before; `ins` is `q + 1` in both cases. It leaves every valid link
below `q + 1` where they were below `q`. -/
def Obligations.FindReturnsRealMatch : Prop :=
  ∀ (e : Source) (q : Nat) (w : Work), q < e.n → e.n ≤ 2147483647 →
    (∀ len d, (find e q w).1 = some (len, d) →
      3 ≤ len ∧ len ≤ 17010 ∧ q + len ≤ e.n ∧ 3 ≤ d ∧ d ≤ 524288 ∧ d ≤ q ∧
      (∀ i, i < len → e.src (q + i) = e.src (q - d + i)) ∧
      (5 ≤ len ∨ (len = 4 ∧ d ≤ 32768) ∨ (len = 3 ∧ d ≤ 4096))) ∧
    (q + 3 ≤ e.n →
      (∀ h, linkGet (find e q w).2.mf.head h =
        if h = hashAt e w.mf.profile q then { valid := true, pos := BitVec.ofNat 32 q } else linkGet w.mf.head h) ∧
      (∀ c, linkGet (find e q w).2.mf.chain c =
        if c = q &&& w.mf.profile.chainMask then linkGet w.mf.head (hashAt e w.mf.profile q)
        else linkGet w.mf.chain c)) ∧
    (e.n < q + 3 → (find e q w).2.mf.head = w.mf.head ∧ (find e q w).2.mf.chain = w.mf.chain) ∧
    (find e q w).2.mf.ins.toNat = q + 1 ∧
    (w.mf.linksBelow q → (find e q w).2.mf.linksBelow (q + 1))

/-- R501: with no used symbol the lengths are 1 at symbols 0 and 1; with one used symbol `u` they are 1 at `u` and at 0, or at
1 if `u` is 0; always a complete code of two 1-bit codes. -/
def Obligations.PadLengthsGivesTwoCodes : Prop :=
  ∀ (freq : List Nat) (n lmax : Nat), freq.length = n → 2 ≤ n → 1 ≤ lmax →
    let lens := (buildLengths freq n lmax).lens
    ((∀ s, freq.getD s 0 = 0) →
      CompleteCode lens n lmax ∧ ∀ s, s < n → lens.getD s 0 = if s = 0 ∨ s = 1 then 1 else 0) ∧
    (∀ u, u < n → 0 < freq.getD u 0 → (∀ s, s ≠ u → freq.getD s 0 = 0) →
      CompleteCode lens n lmax ∧
      ∀ s, s < n → lens.getD s 0 = if s = u ∨ s = (if u = 0 then 1 else 0) then 1 else 0)

/-- R510: every length array `BuildLengths` returns is a complete prefix code with at least 2 used symbols and every length
in 1 to `Lmax`; and every symbol that occurs has a code (R562). -/
def Obligations.BuildLengthsIsCompleteCode : Prop :=
  ∀ (freq : List Nat) (n lmax : Nat), (n, lmax) ∈ [(320, 14), (64, 14), (20, 7)] → freq.length = n →
    CompleteCode (buildLengths freq n lmax).lens n lmax ∧
    2 ≤ ((buildLengths freq n lmax).lens.filter (fun l => decide (0 < l))).length ∧
    ∀ s, 0 < freq.getD s 0 → 0 < (buildLengths freq n lmax).lens.getD s 0

/-- R554, R706: the decoder's repeats undo the run-length coding of the encoder: the items of `RLE(seq)`, applied in order,
write exactly `seq`; and every item has a symbol of the alphabet and the extra bits of that symbol. -/
def Obligations.UnRleInvertsRle : Prop :=
  ∀ (seq : List Nat) (lens : List (BitVec 4)), (∀ v ∈ seq, v ≤ 14) → seq.length ≤ lens.length →
    (∀ i ∈ rle seq, i.t < 20 ∧ i.e = runExtra i.t ∧ i.x < 2 ^ i.e) ∧
    ∃ out, applyItems seq.length (rle seq) (lens, 0) = some (out, seq.length) ∧ out.length = lens.length ∧
      (∀ j, j < seq.length → (out.getD j 0).toNat = seq.getD j 0) ∧
      (∀ j, seq.length ≤ j → out.getD j 0 = lens.getD j 0)

/-- R508, R709, R751 to R753: the tree built from a complete code decodes every one of its codes: where the stream holds the
reversed code that the writer emits for a symbol, `GetCode` returns that symbol and consumes exactly its length. -/
def Obligations.TreeWalkDecodesEveryCode : Prop :=
  ∀ (lens : List Nat) (n lmax sym : Nat) (mem : Memory) (r : Reader),
    (n, lmax) ∈ [(320, 14), (64, 14), (20, 7)] → CompleteCode lens n lmax → sym < n → 0 < lens.getD sym 0 →
    r.Coherent mem → r.position + lens.getD sym 0 ≤ r.bits →
    (∀ j, j < lens.getD sym 0 →
      streamBit mem r.base (r.position + j) = ((reversedCodes lens lmax).getD sym 0).testBit j) →
    ∃ tree r', buildTree lens n lmax = some tree ∧ getCode mem tree r = .ok (sym, r') ∧
      r'.position = r.position + lens.getD sym 0 ∧ r'.Coherent mem ∧ r'.base = r.base ∧ r'.len = r.len
end

