-- ==== Sys2Proof/Laws/Memory.lean ====
section
/-! SUPPORT. The laws of host memory: what a read gives after each memory operation, and that every memory operation keeps
the canonical form (20_memory.md R205). -/

namespace Sys2Proof.Laws

open Sys2Proof.Machine

/-! The list of known bytes. -/

theorem cellsGet_cellsSet (l : List Host.Cell) (a k : Nat) (v : Byte) :
    cellsGet (cellsSet l a v) k = if k = a then some v else cellsGet l k := by
  induction l with
  | nil => simp [cellsSet, cellsGet]
  | cons c rest ih =>
    obtain ⟨j, w⟩ := c
    simp only [cellsSet]
    split
    · simp only [cellsGet]
    · split
      · rename_i h; subst h; simp only [cellsGet]; split <;> rfl
      · simp only [cellsGet, ih]
        by_cases h1 : k = j
        · subst h1; rw [if_pos rfl, if_pos rfl, if_neg (by omega)]
        · rw [if_neg h1, if_neg h1]

theorem aboveHead_cellsSet (l : List Host.Cell) (a b : Nat) (v : Byte) (hb : b < a) (hl : aboveHead b l = true) :
    aboveHead b (cellsSet l a v) = true := by
  cases l with
  | nil => simpa [cellsSet, aboveHead] using hb
  | cons c rest =>
    obtain ⟨j, w⟩ := c
    simp only [cellsSet]
    split
    · simpa [aboveHead] using hb
    · split <;> simpa [aboveHead] using (by first | exact hb | simpa [aboveHead] using hl)

theorem cellsAscend_cellsSet (l : List Host.Cell) (a : Nat) (v : Byte) (h : cellsAscend l = true) :
    cellsAscend (cellsSet l a v) = true := by
  induction l with
  | nil => rfl
  | cons c rest ih =>
    obtain ⟨j, w⟩ := c
    simp only [cellsAscend, Bool.and_eq_true] at h
    simp only [cellsSet]
    split
    · rename_i h1
      have e : aboveHead a ((j, w) :: rest) = true := decide_eq_true h1
      rw [cellsAscend, cellsAscend, e, h.1, h.2]; rfl
    · split
      · rename_i h2; subst h2; simp [cellsAscend, h.1, h.2]
      · rename_i h1 h2
        simp [cellsAscend, ih h.2, aboveHead_cellsSet rest a j v (by omega) h.1]

theorem aboveHead_of_lt {j k : Nat} {l : List Host.Cell} (h : j < k) (hl : aboveHead k l = true) :
    aboveHead j l = true := by
  cases l with
  | nil => rfl
  | cons c rest => simp only [aboveHead, decide_eq_true_eq] at *; omega

theorem cellsAscend_filter (l : List Host.Cell) (p : Host.Cell → Bool) (h : cellsAscend l = true) :
    cellsAscend (l.filter p) = true ∧ ∀ j, aboveHead j l = true → aboveHead j (l.filter p) = true := by
  induction l with
  | nil => exact ⟨rfl, fun _ h => h⟩
  | cons c rest ih =>
    obtain ⟨k, w⟩ := c
    simp only [cellsAscend, Bool.and_eq_true] at h
    obtain ⟨h1, h2⟩ := ih h.2
    by_cases hp : p (k, w) = true
    · rw [List.filter_cons_of_pos hp]
      exact ⟨by simp [cellsAscend, h1, h2 k h.1], fun j hj => hj⟩
    · rw [List.filter_cons_of_neg hp]
      refine ⟨h1, fun j hj => h2 j (aboveHead_of_lt ?_ h.1)⟩
      simpa [aboveHead] using hj

theorem all_cellsSet (l : List Host.Cell) (a : Nat) (v : Byte) (n : Nat) (ha : a < n)
    (h : l.all (fun c => decide (c.1 < n)) = true) : (cellsSet l a v).all (fun c => decide (c.1 < n)) = true := by
  induction l with
  | nil => simpa [cellsSet] using ha
  | cons c rest ih =>
    obtain ⟨j, w⟩ := c
    simp only [List.all_cons, Bool.and_eq_true, decide_eq_true_eq] at h
    simp only [cellsSet]
    split
    · simp only [List.all_cons, Bool.and_eq_true, decide_eq_true_eq]; exact ⟨ha, h⟩
    · split
      · simp only [List.all_cons, Bool.and_eq_true, decide_eq_true_eq]; exact ⟨ha, h.2⟩
      · simp only [List.all_cons, Bool.and_eq_true, decide_eq_true_eq]; exact ⟨h.1, ih h.2⟩

theorem cellsGet_filter (l : List Host.Cell) (p : Nat → Bool) (k : Nat) :
    cellsGet (l.filter (fun c => p c.1)) k = if p k then cellsGet l k else none := by
  induction l with
  | nil => simp [cellsGet]
  | cons c rest ih =>
    obtain ⟨j, w⟩ := c
    by_cases hp : p j = true
    · rw [List.filter_cons_of_pos (by exact hp)]
      simp only [cellsGet, ih]
      split
      · rename_i h; subst h; simp [hp]
      · rfl
    · rw [List.filter_cons_of_neg (by exact hp)]
      simp only [cellsGet, ih]
      split
      · split
        · rename_i h1 h2; subst h2; exact absurd h1 hp
        · rfl
      · rfl

/-! Reads. -/

theorem read_write (m : Memory) (a b : Word) (v : Byte) :
    (m.write a v).read b = if b = a then v else m.read b := by
  simp only [Memory.read, Memory.write, cellsGet_cellsSet]
  by_cases h : b = a
  · subst h; simp
  · have h' : b.toNat ≠ a.toNat := fun e => h (BitVec.eq_of_toNat_eq e)
    rw [if_neg h', if_neg h]; rfl

@[simp] theorem read_write_same (m : Memory) (a : Word) (v : Byte) : (m.write a v).read a = v := by
  rw [read_write, if_pos rfl]

theorem read_write_other (m : Memory) {a b : Word} (v : Byte) (h : b ≠ a) : (m.write a v).read b = m.read b := by
  rw [read_write, if_neg h]

theorem holds_eq_inRange (a base len : Word) (nonce : Nat) :
    Region.holds { base := base.toNat, len := len.toNat, nonce := nonce } a.toNat = inRange a base len := by
  simp [Region.holds, inRange]

theorem read_forget_outside (m : Memory) (base len x : Word) (nonce : Nat) (h : inRange x base len = false) :
    (m.forget base len nonce).read x = m.read x := by
  have hh := holds_eq_inRange x base len nonce
  rw [h] at hh
  simp only [Memory.read, Memory.forget, Memory.unlisted, nonceAt,
    cellsGet_filter m.cells (fun a => !Region.holds { base := base.toNat, len := len.toNat, nonce := nonce } a), hh]
  simp

theorem writeWord_read (m : Memory) (a x : Word) (w : Word) :
    (m.writeWord a w).read x =
      if x = a + 3 then w.extractLsb' 24 8
      else if x = a + 2 then w.extractLsb' 16 8
      else if x = a + 1 then w.extractLsb' 8 8
      else if x = a then w.extractLsb' 0 8
      else m.read x := by
  simp only [Memory.writeWord, read_write]

/-- A word write changes only its four bytes. -/
theorem read_writeWord_other (m : Memory) (a x : Word) (w : Word) (h : ∀ j, j < 4 → x ≠ a + BitVec.ofNat 32 j) :
    (m.writeWord a w).read x = m.read x := by
  have h0 : x ≠ a := by simpa using h 0 (by omega)
  have h1 : x ≠ a + 1 := h 1 (by omega)
  have h2 : x ≠ a + 2 := h 2 (by omega)
  have h3 : x ≠ a + 3 := h 3 (by omega)
  rw [writeWord_read, if_neg h3, if_neg h2, if_neg h1, if_neg h0]

theorem ofNat_add_inj {a : Word} {i j : Nat} (hi : i < 2 ^ 32) (hj : j < 2 ^ 32)
    (h : a + BitVec.ofNat 32 i = a + BitVec.ofNat 32 j) : i = j := by
  have h1 : BitVec.ofNat 32 i = BitVec.ofNat 32 j := by
    have := congrArg (· - a) h
    simpa [BitVec.add_comm a, BitVec.add_sub_cancel] using this
  have h2 := congrArg BitVec.toNat h1
  simp only [BitVec.toNat_ofNat] at h2
  omega

/-- Byte `j` of a word that was written. -/
theorem read_writeWord_same (m : Memory) (a : Word) (w : Word) (j : Nat) (hj : j < 4) :
    (m.writeWord a w).read (a + BitVec.ofNat 32 j) = w.extractLsb' (8 * j) 8 := by
  have key : ∀ k : Nat, k < 4 → (a + BitVec.ofNat 32 j = a + BitVec.ofNat 32 k ↔ j = k) := fun k hk =>
    ⟨fun h => ofNat_add_inj (by omega) (by omega) h, fun h => by rw [h]⟩
  rw [writeWord_read]
  have h3 := key 3 (by omega)
  have h2 := key 2 (by omega)
  have h1 := key 1 (by omega)
  have h0 := key 0 (by omega)
  simp only [BitVec.add_zero, BitVec.ofNat_eq_ofNat] at h3 h2 h1 h0 ⊢
  simp only [h3, h2, h1, h0]
  have : j = 0 ∨ j = 1 ∨ j = 2 ∨ j = 3 := by omega
  rcases this with rfl | rfl | rfl | rfl <;> simp

/-- A forward copy changes only the bytes it writes. -/
theorem read_copyForward_other (dst src : Word) (count i : Nat) (m : Memory) (x : Word)
    (h : ∀ j, i ≤ j → j < i + count → x ≠ dst + BitVec.ofNat 32 j) :
    (Memory.copyForward dst src count i m).read x = m.read x := by
  induction count generalizing i m with
  | zero => rfl
  | succ n ih =>
    rw [Memory.copyForward, ih (i + 1) _ (fun j h1 h2 => h j (by omega) (by omega))]
    exact read_write_other _ _ (h i (by omega) (by omega))

/-- A forward copy from bytes that it does not write. -/
theorem read_copyForward_same (dst src : Word) (count i : Nat) (m : Memory) (hc : i + count ≤ 2 ^ 32)
    (h : ∀ j k, i ≤ j → j < i + count → i ≤ k → k < i + count →
      src + BitVec.ofNat 32 k ≠ dst + BitVec.ofNat 32 j) (j : Nat) (h1 : i ≤ j) (h2 : j < i + count) :
    (Memory.copyForward dst src count i m).read (dst + BitVec.ofNat 32 j) = m.read (src + BitVec.ofNat 32 j) := by
  induction count generalizing i m with
  | zero => omega
  | succ n ih =>
    rw [Memory.copyForward]
    by_cases hj : j = i
    · subst hj
      rw [read_copyForward_other _ _ _ _ _ _ (fun k hk1 hk2 e => by
        have := ofNat_add_inj (by omega) (by omega) e; omega)]
      exact read_write_same _ _ _
    · rw [ih (i + 1) _ (by omega) (fun a b h3 h4 h5 h6 => h a b (by omega) (by omega) (by omega) (by omega))
        (by omega) (by omega)]
      exact read_write_other _ _ (h i j (by omega) (by omega) h1 h2)

/-! The canonical form. -/

theorem wf_iff (m : Memory) :
    m.wf = true ↔ cellsAscend m.cells = true ∧ m.cells.all (fun c => decide (c.1 < 2 ^ 32)) = true := by
  rw [Memory.wf, Bool.and_eq_true]

theorem wf_write {m : Memory} (a : Word) (v : Byte) (h : m.wf = true) : (m.write a v).wf = true := by
  rw [wf_iff] at *
  exact ⟨cellsAscend_cellsSet _ _ _ h.1, all_cellsSet _ _ _ _ a.isLt h.2⟩

theorem wf_writeWord {m : Memory} (a w : Word) (h : m.wf = true) : (m.writeWord a w).wf = true :=
  wf_write _ _ (wf_write _ _ (wf_write _ _ (wf_write _ _ h)))

theorem wf_copyForward (dst src : Word) (count i : Nat) {m : Memory} (h : m.wf = true) :
    (Memory.copyForward dst src count i m).wf = true := by
  induction count generalizing i m with
  | zero => exact h
  | succ n ih => exact ih (i + 1) (wf_write _ _ h)

theorem wf_forget {m : Memory} (base len : Word) (nonce : Nat) (h : m.wf = true) :
    (m.forget base len nonce).wf = true := by
  rw [wf_iff] at *
  refine ⟨(cellsAscend_filter _ _ h.1).1, ?_⟩
  rw [List.all_eq_true] at *
  exact fun c hc => h.2 c (List.mem_of_mem_filter hc)

theorem wf_reset : State.reset.mem.wf = true := rfl

theorem wf_storedBytes (dst : Word) (k i : Nat) {m m' : Memory} {r r' : Reader}
    (h : storedBytes dst k i m r = .ok (m', r')) (hm : m.wf = true) : m'.wf = true := by
  induction k generalizing i m r with
  | zero => cases h; exact hm
  | succ n ih =>
    rw [storedBytes] at h
    split at h
    · cases h
    · exact ih (i + 1) h (wf_write _ _ hm)

/-- A stored block's bytes change only the addresses they go to. -/
theorem read_storedBytes_other (dst : Word) (k i : Nat) {m m' : Memory} {r r' : Reader} (x : Word)
    (h : storedBytes dst k i m r = .ok (m', r'))
    (hx : ∀ j, i ≤ j → j < i + k → x ≠ dst + BitVec.ofNat 32 j) : m'.read x = m.read x := by
  induction k generalizing i m r with
  | zero => cases h; rfl
  | succ n ih =>
    rw [storedBytes] at h
    split at h
    · cases h
    · rw [ih (i + 1) h (fun j h1 h2 => hx j (by omega) (by omega))]
      exact read_write_other _ _ (hx i (by omega) (by omega))

end Sys2Proof.Laws
end

