-- ==== Sys2Proof/Laws/Encoder.lean ====
section
/-! SUPPORT. What every operation of the compressor keeps (20_memory.md R206, 45_bit_writer.md R602, R605): the writer's
capacity, base and mode; memory changes only in the payload words emitted in between, which stay within the capacity; measure
mode changes no memory. One lemma per operation, each from those of the operations it calls. -/

namespace Sys2Proof.Laws

open Sys2Proof.Machine

/-- The 32-bit position is the number that the 30-bit register holds. -/
@[simp] theorem wwords_toNat (wr : Writer) : wr.wwords.toNat = wr.words.toNat := by
  have := wr.words.isLt
  simp only [Writer.wwords, BitVec.zeroExtend, BitVec.toNat_setWidth]
  omega

/-- Every index of a match finder's table reads as before a write but the one written. -/
theorem linkGet_linkSet (t : List (Nat × Link)) (i k : Nat) (l : Link) :
    linkGet (linkSet t i l) k = if k = i then l else linkGet t k := by
  induction t with
  | nil => simp [linkSet, linkGet]
  | cons a rest ih =>
    obtain ⟨j, v⟩ := a
    simp only [linkSet]
    split
    · simp [linkGet]
    · split
      · subst_vars; simp only [linkGet]; split <;> rfl
      · simp only [linkGet, ih]
        by_cases h : k = j
        · rw [if_pos h, if_neg (by omega), if_pos h]
        · rw [if_neg h, if_neg h]

/-- Payload emitted between two moments of a compressor's work. -/
structure Emits (w w' : Work) : Prop where
  cap : w'.wr.cap = w.wr.cap
  base : w'.wr.base = w.wr.base
  mode : w'.wr.mode = w.wr.mode
  grows : w.wr.words.toNat ≤ w'.wr.words.toNat
  bound : 4 * w.wr.words.toNat ≤ w.wr.cap.toNat → 4 * w'.wr.words.toNat ≤ w.wr.cap.toNat
  wf : w.mem.wf = true → w'.mem.wf = true
  quiet : w.wr.mode = .measure → w'.mem = w.mem
  frame : ∀ x : Word, (∀ j, 4 * w.wr.words.toNat ≤ j → j < 4 * w'.wr.words.toNat →
    x ≠ w.wr.base + BitVec.ofNat 32 j) → w'.mem.read x = w.mem.read x

theorem Emits.of_eq {w w' : Work} (hw : w'.wr = w.wr) (hm : w'.mem = w.mem) : Emits w w' :=
  ⟨by rw [hw], by rw [hw], by rw [hw], by rw [hw], by rw [hw]; exact id, by rw [hm]; exact id, fun _ => hm,
    fun _ _ => by rw [hm]⟩

/-- Only the pending bits differ. -/
theorem Emits.of_pending {w w' : Work} (acc : Word) (k : BitVec 5) (hw : w'.wr = { w.wr with acc := acc, k := k })
    (hm : w'.mem = w.mem) : Emits w w' :=
  ⟨by rw [hw], by rw [hw], by rw [hw], by rw [hw], by rw [hw]; exact id, by rw [hm]; exact id, fun _ => hm,
    fun _ _ => by rw [hm]⟩

theorem Emits.refl (w : Work) : Emits w w := Emits.of_eq rfl rfl

theorem Emits.trans {a b c : Work} (h1 : Emits a b) (h2 : Emits b c) : Emits a c where
  cap := h2.cap.trans h1.cap
  base := h2.base.trans h1.base
  mode := h2.mode.trans h1.mode
  grows := le_trans h1.grows h2.grows
  bound h := by have := h2.bound (by rw [h1.cap]; exact h1.bound h); rwa [h1.cap] at this
  wf h := h2.wf (h1.wf h)
  quiet h := (h2.quiet (h1.mode.trans h)).trans (h1.quiet h)
  frame x hx := by
    have g1 := h1.grows
    have g2 := h2.grows
    refine (h2.frame x (fun j a b => ?_)).trans (h1.frame x (fun j a b => hx j a (by omega)))
    rw [h1.base]; exact hx j (by omega) b

/-- An operation that goes on from a work with the same writer and memory. -/
theorem Emits.of_same {w w1 w2 : Work} (h : Emits w1 w2) (hw : w1.wr = w.wr) (hm : w1.mem = w.mem) : Emits w w2 :=
  (Emits.of_eq hw hm).trans h

/-- NoSpace passes through; otherwise the second operation goes on from the first. -/
theorem Emits.andThen {w : Work} {r : Run} {f : Work → Run} (h1 : Emits w r.work)
    (h2 : ∀ w1, r = .ok w1 → Emits w1 (f w1).work) : Emits w (r.andThen f).work := by
  cases r with
  | ok w1 => exact h1.trans (h2 w1 rfl)
  | noSpace w1 => exact h1

theorem emitWord_emits (v : Word) (w : Work) : Emits w (emitWord v w).work := by
  unfold emitWord
  simp only [wwords_toNat]
  split
  · exact Emits.refl w
  · rename_i hcap
    have hc := w.wr.cap.isLt
    have hwd : (w.wr.words + 1).toNat = w.wr.words.toNat + 1 := by
      have h1 : (1 : BitVec 30).toNat = 1 := rfl
      rw [BitVec.toNat_add, h1]; omega
    refine ⟨rfl, rfl, rfl, ?_, ?_, ?_, ?_, ?_⟩
    · simp only [Run.work, hwd]; omega
    · intro _; simp only [Run.work, hwd]; omega
    · intro h; simp only [Run.work]; split
      · exact wf_writeWord _ _ h
      · exact h
    · intro h; rw [Run.work, h]
    · intro x hx
      simp only [Run.work, hwd] at *
      split
      · refine read_writeWord_other _ _ _ _ (fun j hj => ?_)
        have := hx (4 * w.wr.words.toNat + j) (by omega) (by omega)
        rw [BitVec.add_assoc, ← BitVec.ofNat_add]; exact this
      · rfl

theorem putBits_emits (v k : Nat) (w : Work) : Emits w (putBits v k w).work := by
  unfold putBits
  simp only
  split
  · refine (emitWord_emits _ w).andThen (fun w1 _ => ?_)
    exact Emits.of_pending _ _ rfl rfl
  · exact Emits.of_pending _ _ rfl rfl

theorem putFields_emits (l : List (Nat × Nat)) (w : Work) : Emits w (putFields l w).work := by
  induction l generalizing w with
  | nil => exact Emits.refl w
  | cons f rest ih => exact (putBits_emits _ _ w).andThen (fun w1 _ => ih w1)

theorem alignWriter_emits (w : Work) : Emits w (alignWriter w).work := putBits_emits _ _ w

theorem finalFlush_emits (w : Work) : Emits w (finalFlush w).work := by
  unfold finalFlush
  split
  · exact (emitWord_emits _ w).andThen (fun w1 _ => Emits.of_pending 0 0 rfl rfl)
  · exact Emits.refl w

theorem emitStored_emits (e : Source) (w : Work) : Emits w (emitStored e w).work :=
  (putFields_emits _ w).andThen (fun w1 _ => (alignWriter_emits w1).andThen (fun w2 _ => putFields_emits _ w2))

theorem emitCompressed_emits (w : Work) : Emits w (emitCompressed w).work := putFields_emits _ w

theorem flush_emits (e : Source) (w : Work) : Emits w (flush e w).work := by
  have h0 : Emits w (buildTables w) := Emits.of_eq rfl rfl
  unfold flush
  simp only
  split
  · exact h0.trans ((emitStored_emits e _).andThen (fun w1 _ => Emits.of_eq rfl rfl))
  · exact h0.trans ((emitCompressed_emits _).andThen (fun w1 _ => Emits.of_eq rfl rfl))

theorem flushIfFull_emits (e : Source) (w : Work) : Emits w (flushIfFull e w).work := by
  unfold flushIfFull
  split
  · exact flush_emits e w
  · exact Emits.refl w

theorem flushFinal_emits (e : Source) (w : Work) : Emits w (flushFinal e w).work := by
  unfold flushFinal
  split
  · exact flush_emits e w
  · exact Emits.refl w

theorem putChar_emits (e : Source) (b : Byte) (w : Work) : Emits w (putChar e b w).work := by
  unfold putChar
  exact (flushIfFull_emits e _).of_same rfl rfl

theorem putLenDist_emits (e : Source) (len d : Nat) (w : Work) : Emits w (putLenDist e len d w).work := by
  unfold putLenDist
  exact (flushIfFull_emits e _).of_same rfl rfl

/-- Insertion touches the match finder only. -/
theorem insertPos_keeps (e : Source) (q : Nat) (w : Work) :
    ∃ mf, insertPos e q w = { w with mf := mf } := by
  unfold insertPos
  simp only
  split <;> exact ⟨_, rfl⟩

theorem find_keeps (e : Source) (q : Nat) (w : Work) : ∃ mf, (find e q w).2 = { w with mf := mf } := by
  unfold find
  simp only
  split <;> exact insertPos_keeps e q w

theorem findCur_keeps (e : Source) (q : Nat) (w : Work) : ∃ mf, findCur e q w = { w with mf := mf } := by
  obtain ⟨mf, h⟩ := find_keeps e q w
  simp only [findCur, h]
  exact ⟨_, rfl⟩

theorem findNext_keeps (e : Source) (w : Work) : ∃ mf, findNext e w = { w with mf := mf } := by
  unfold findNext
  split
  · exact findCur_keeps e _ w
  · exact ⟨w.mf, rfl⟩

theorem insertUpTo_keeps (e : Source) (stop k : Nat) (w : Work) :
    ∃ mf, insertUpTo e stop k w = { w with mf := mf } := by
  induction k generalizing w with
  | zero => exact ⟨w.mf, rfl⟩
  | succ k ih =>
    rw [insertUpTo]
    split
    · obtain ⟨mf, h⟩ := insertPos_keeps e w.mf.ins.toNat w
      obtain ⟨mf', h'⟩ := ih (insertPos e w.mf.ins.toNat w)
      exact ⟨mf', by rw [h', h]⟩
    · exact ⟨w.mf, rfl⟩

/-- A change of the match finder emits nothing. -/
theorem Emits.of_finder {w w' : Work} (h : ∃ mf, w' = { w with mf := mf }) : Emits w w' := by
  obtain ⟨mf, rfl⟩ := h; exact Emits.of_eq rfl rfl

theorem lazyProbe_emits (e : Source) (k : Nat) (w : Work) : Emits w (lazyProbe e k w).work := by
  induction k generalizing w with
  | zero => exact Emits.refl w
  | succ k ih =>
    rw [lazyProbe]
    simp only
    split
    · have hf : Emits w (find e (w.mf.p.toNat + 1) w).2 := Emits.of_finder (find_keeps e _ w)
      split
      · exact hf
      · split
        · refine hf.trans ((putChar_emits e _ _).andThen (fun w2 _ => ?_))
          exact (ih _).of_same rfl rfl
        · exact hf
    · exact Emits.refl w

theorem scanOnce_emits (e : Source) (w : Work) : Emits w (scanOnce e w).work := by
  unfold scanOnce
  split
  · refine (putChar_emits e _ w).andThen (fun w1 _ => ?_)
    exact Emits.trans (Emits.of_eq rfl rfl) (Emits.of_finder (findNext_keeps e (advance 1 w1)))
  · refine (lazyProbe_emits e _ w).andThen (fun w1 _ => ?_)
    refine (putLenDist_emits e _ _ w1).andThen (fun w2 _ => ?_)
    refine Emits.trans (Emits.of_finder (insertUpTo_keeps e (w2.mf.p.toNat + w1.mf.cur.len.toNat)
      w1.mf.cur.len.toNat w2)) ?_
    exact Emits.trans (Emits.of_eq rfl rfl) (Emits.of_finder (findNext_keeps e (advance _ _)))

theorem scanLoop_emits (e : Source) (k : Nat) (w : Work) : Emits w (scanLoop e k w).work := by
  induction k generalizing w with
  | zero => exact Emits.refl w
  | succ k ih =>
    rw [scanLoop]
    split
    · exact (scanOnce_emits e w).andThen (fun w1 _ => ih w1)
    · exact Emits.refl w

theorem scan_emits (e : Source) (w : Work) : Emits w (scan e w).work :=
  Emits.trans (Emits.of_finder (findCur_keeps e 0 w))
    ((scanLoop_emits e e.n _).andThen (fun w1 _ => flushFinal_emits e w1))

/-- The Huffman attempt of COMPRESS and MEASURE, from its initialisation to its end. -/
theorem attempt_emits (s : State) (level : Level) (mode : WMode) :
    Emits (s.initWork level mode) (s.attempt level mode).work :=
  (scan_emits s.source _).andThen (fun w1 _ => finalFlush_emits w1)

end Sys2Proof.Laws
end

