-- ==== Sys2Proof/Laws/State.lean ====
section
/-! SUPPORT. The field lemmas of the state's updates: for each update, what each field is after it. -/

namespace Sys2Proof.Laws

open Sys2Proof.Machine


/-! `Regs.flagsAtStart` -/

@[simp] theorem flagsAtStart_cmdOp (r : Regs) : (r.flagsAtStart).cmdOp = r.cmdOp := rfl
@[simp] theorem flagsAtStart_cmdLevel (r : Regs) : (r.flagsAtStart).cmdLevel = r.cmdLevel := rfl
@[simp] theorem flagsAtStart_busy (r : Regs) : (r.flagsAtStart).busy = true := rfl
@[simp] theorem flagsAtStart_done (r : Regs) : (r.flagsAtStart).done = false := rfl
@[simp] theorem flagsAtStart_err (r : Regs) : (r.flagsAtStart).err = false := rfl
@[simp] theorem flagsAtStart_overrun (r : Regs) : (r.flagsAtStart).overrun = r.overrun := rfl
@[simp] theorem flagsAtStart_errcode (r : Regs) : (r.flagsAtStart).errcode = 0 := rfl
@[simp] theorem flagsAtStart_srcAddr (r : Regs) : (r.flagsAtStart).srcAddr = r.srcAddr := rfl
@[simp] theorem flagsAtStart_srcLen (r : Regs) : (r.flagsAtStart).srcLen = r.srcLen := rfl
@[simp] theorem flagsAtStart_dstAddr (r : Regs) : (r.flagsAtStart).dstAddr = r.dstAddr := rfl
@[simp] theorem flagsAtStart_dstCap (r : Regs) : (r.flagsAtStart).dstCap = r.dstCap := rfl
@[simp] theorem flagsAtStart_resultLen (r : Regs) : (r.flagsAtStart).resultLen = 0 := rfl
@[simp] theorem flagsAtStart_form (r : Regs) : (r.flagsAtStart).form = false := rfl
@[simp] theorem flagsAtStart_fallback (r : Regs) : (r.flagsAtStart).fallback = false := rfl
@[simp] theorem flagsAtStart_errOffset (r : Regs) : (r.flagsAtStart).errOffset = 0 := rfl
@[simp] theorem flagsAtStart_doneIe (r : Regs) : (r.flagsAtStart).doneIe = r.doneIe := rfl
@[simp] theorem flagsAtStart_errIe (r : Regs) : (r.flagsAtStart).errIe = r.errIe := rfl

/-! `Regs.flagsAtDone` -/

@[simp] theorem flagsAtDone_cmdOp (r : Regs) (len : Word) (a b : Bool) : (r.flagsAtDone len a b).cmdOp = r.cmdOp := rfl
@[simp] theorem flagsAtDone_cmdLevel (r : Regs) (len : Word) (a b : Bool) : (r.flagsAtDone len a b).cmdLevel = r.cmdLevel := rfl
@[simp] theorem flagsAtDone_busy (r : Regs) (len : Word) (a b : Bool) : (r.flagsAtDone len a b).busy = false := rfl
@[simp] theorem flagsAtDone_done (r : Regs) (len : Word) (a b : Bool) : (r.flagsAtDone len a b).done = true := rfl
@[simp] theorem flagsAtDone_err (r : Regs) (len : Word) (a b : Bool) : (r.flagsAtDone len a b).err = r.err := rfl
@[simp] theorem flagsAtDone_overrun (r : Regs) (len : Word) (a b : Bool) : (r.flagsAtDone len a b).overrun = r.overrun := rfl
@[simp] theorem flagsAtDone_errcode (r : Regs) (len : Word) (a b : Bool) : (r.flagsAtDone len a b).errcode = r.errcode := rfl
@[simp] theorem flagsAtDone_srcAddr (r : Regs) (len : Word) (a b : Bool) : (r.flagsAtDone len a b).srcAddr = r.srcAddr := rfl
@[simp] theorem flagsAtDone_srcLen (r : Regs) (len : Word) (a b : Bool) : (r.flagsAtDone len a b).srcLen = r.srcLen := rfl
@[simp] theorem flagsAtDone_dstAddr (r : Regs) (len : Word) (a b : Bool) : (r.flagsAtDone len a b).dstAddr = r.dstAddr := rfl
@[simp] theorem flagsAtDone_dstCap (r : Regs) (len : Word) (a b : Bool) : (r.flagsAtDone len a b).dstCap = r.dstCap := rfl
@[simp] theorem flagsAtDone_resultLen (r : Regs) (len : Word) (a b : Bool) : (r.flagsAtDone len a b).resultLen = len := rfl
@[simp] theorem flagsAtDone_form (r : Regs) (len : Word) (a b : Bool) : (r.flagsAtDone len a b).form = a := rfl
@[simp] theorem flagsAtDone_fallback (r : Regs) (len : Word) (a b : Bool) : (r.flagsAtDone len a b).fallback = b := rfl
@[simp] theorem flagsAtDone_errOffset (r : Regs) (len : Word) (a b : Bool) : (r.flagsAtDone len a b).errOffset = r.errOffset := rfl
@[simp] theorem flagsAtDone_doneIe (r : Regs) (len : Word) (a b : Bool) : (r.flagsAtDone len a b).doneIe = r.doneIe := rfl
@[simp] theorem flagsAtDone_errIe (r : Regs) (len : Word) (a b : Bool) : (r.flagsAtDone len a b).errIe = r.errIe := rfl

/-! `Regs.flagsAtError` -/

@[simp] theorem flagsAtError_cmdOp (r : Regs) (e : ErrCode) (info : Word) : (r.flagsAtError e info).cmdOp = r.cmdOp := rfl
@[simp] theorem flagsAtError_cmdLevel (r : Regs) (e : ErrCode) (info : Word) : (r.flagsAtError e info).cmdLevel = r.cmdLevel := rfl
@[simp] theorem flagsAtError_busy (r : Regs) (e : ErrCode) (info : Word) : (r.flagsAtError e info).busy = false := rfl
@[simp] theorem flagsAtError_done (r : Regs) (e : ErrCode) (info : Word) : (r.flagsAtError e info).done = false := rfl
@[simp] theorem flagsAtError_err (r : Regs) (e : ErrCode) (info : Word) : (r.flagsAtError e info).err = true := rfl
@[simp] theorem flagsAtError_overrun (r : Regs) (e : ErrCode) (info : Word) : (r.flagsAtError e info).overrun = r.overrun := rfl
@[simp] theorem flagsAtError_errcode (r : Regs) (e : ErrCode) (info : Word) : (r.flagsAtError e info).errcode = e.code := rfl
@[simp] theorem flagsAtError_srcAddr (r : Regs) (e : ErrCode) (info : Word) : (r.flagsAtError e info).srcAddr = r.srcAddr := rfl
@[simp] theorem flagsAtError_srcLen (r : Regs) (e : ErrCode) (info : Word) : (r.flagsAtError e info).srcLen = r.srcLen := rfl
@[simp] theorem flagsAtError_dstAddr (r : Regs) (e : ErrCode) (info : Word) : (r.flagsAtError e info).dstAddr = r.dstAddr := rfl
@[simp] theorem flagsAtError_dstCap (r : Regs) (e : ErrCode) (info : Word) : (r.flagsAtError e info).dstCap = r.dstCap := rfl
@[simp] theorem flagsAtError_resultLen (r : Regs) (e : ErrCode) (info : Word) : (r.flagsAtError e info).resultLen = 0 := rfl
@[simp] theorem flagsAtError_form (r : Regs) (e : ErrCode) (info : Word) : (r.flagsAtError e info).form = false := rfl
@[simp] theorem flagsAtError_fallback (r : Regs) (e : ErrCode) (info : Word) : (r.flagsAtError e info).fallback = false := rfl
@[simp] theorem flagsAtError_errOffset (r : Regs) (e : ErrCode) (info : Word) : (r.flagsAtError e info).errOffset = info := rfl
@[simp] theorem flagsAtError_doneIe (r : Regs) (e : ErrCode) (info : Word) : (r.flagsAtError e info).doneIe = r.doneIe := rfl
@[simp] theorem flagsAtError_errIe (r : Regs) (e : ErrCode) (info : Word) : (r.flagsAtError e info).errIe = r.errIe := rfl

/-! `Regs.flagsAtOverrun` -/

@[simp] theorem flagsAtOverrun_cmdOp (r : Regs) : (r.flagsAtOverrun).cmdOp = r.cmdOp := rfl
@[simp] theorem flagsAtOverrun_cmdLevel (r : Regs) : (r.flagsAtOverrun).cmdLevel = r.cmdLevel := rfl
@[simp] theorem flagsAtOverrun_busy (r : Regs) : (r.flagsAtOverrun).busy = r.busy := rfl
@[simp] theorem flagsAtOverrun_done (r : Regs) : (r.flagsAtOverrun).done = r.done := rfl
@[simp] theorem flagsAtOverrun_err (r : Regs) : (r.flagsAtOverrun).err = r.err := rfl
@[simp] theorem flagsAtOverrun_overrun (r : Regs) : (r.flagsAtOverrun).overrun = true := rfl
@[simp] theorem flagsAtOverrun_errcode (r : Regs) : (r.flagsAtOverrun).errcode = r.errcode := rfl
@[simp] theorem flagsAtOverrun_srcAddr (r : Regs) : (r.flagsAtOverrun).srcAddr = r.srcAddr := rfl
@[simp] theorem flagsAtOverrun_srcLen (r : Regs) : (r.flagsAtOverrun).srcLen = r.srcLen := rfl
@[simp] theorem flagsAtOverrun_dstAddr (r : Regs) : (r.flagsAtOverrun).dstAddr = r.dstAddr := rfl
@[simp] theorem flagsAtOverrun_dstCap (r : Regs) : (r.flagsAtOverrun).dstCap = r.dstCap := rfl
@[simp] theorem flagsAtOverrun_resultLen (r : Regs) : (r.flagsAtOverrun).resultLen = r.resultLen := rfl
@[simp] theorem flagsAtOverrun_form (r : Regs) : (r.flagsAtOverrun).form = r.form := rfl
@[simp] theorem flagsAtOverrun_fallback (r : Regs) : (r.flagsAtOverrun).fallback = r.fallback := rfl
@[simp] theorem flagsAtOverrun_errOffset (r : Regs) : (r.flagsAtOverrun).errOffset = r.errOffset := rfl
@[simp] theorem flagsAtOverrun_doneIe (r : Regs) : (r.flagsAtOverrun).doneIe = r.doneIe := rfl
@[simp] theorem flagsAtOverrun_errIe (r : Regs) : (r.flagsAtOverrun).errIe = r.errIe := rfl

/-! `Regs.clearW1C` -/

@[simp] theorem clearW1C_cmdOp (r : Regs) (v : Word) : (r.clearW1C v).cmdOp = r.cmdOp := rfl
@[simp] theorem clearW1C_cmdLevel (r : Regs) (v : Word) : (r.clearW1C v).cmdLevel = r.cmdLevel := rfl
@[simp] theorem clearW1C_busy (r : Regs) (v : Word) : (r.clearW1C v).busy = r.busy := rfl
@[simp] theorem clearW1C_done (r : Regs) (v : Word) : (r.clearW1C v).done = (r.done && !v.getLsbD 1) := rfl
@[simp] theorem clearW1C_err (r : Regs) (v : Word) : (r.clearW1C v).err = (r.err && !v.getLsbD 2) := rfl
@[simp] theorem clearW1C_overrun (r : Regs) (v : Word) : (r.clearW1C v).overrun = (r.overrun && !v.getLsbD 3) := rfl
@[simp] theorem clearW1C_errcode (r : Regs) (v : Word) : (r.clearW1C v).errcode = r.errcode := rfl
@[simp] theorem clearW1C_srcAddr (r : Regs) (v : Word) : (r.clearW1C v).srcAddr = r.srcAddr := rfl
@[simp] theorem clearW1C_srcLen (r : Regs) (v : Word) : (r.clearW1C v).srcLen = r.srcLen := rfl
@[simp] theorem clearW1C_dstAddr (r : Regs) (v : Word) : (r.clearW1C v).dstAddr = r.dstAddr := rfl
@[simp] theorem clearW1C_dstCap (r : Regs) (v : Word) : (r.clearW1C v).dstCap = r.dstCap := rfl
@[simp] theorem clearW1C_resultLen (r : Regs) (v : Word) : (r.clearW1C v).resultLen = r.resultLen := rfl
@[simp] theorem clearW1C_form (r : Regs) (v : Word) : (r.clearW1C v).form = r.form := rfl
@[simp] theorem clearW1C_fallback (r : Regs) (v : Word) : (r.clearW1C v).fallback = r.fallback := rfl
@[simp] theorem clearW1C_errOffset (r : Regs) (v : Word) : (r.clearW1C v).errOffset = r.errOffset := rfl
@[simp] theorem clearW1C_doneIe (r : Regs) (v : Word) : (r.clearW1C v).doneIe = r.doneIe := rfl
@[simp] theorem clearW1C_errIe (r : Regs) (v : Word) : (r.clearW1C v).errIe = r.errIe := rfl

/-! `Regs.flagsAtSpoiledEnd`: the fields that are not free -/

@[simp] theorem flagsAtSpoiledEnd_cmdOp (r : Regs) (n : Nat) : (r.flagsAtSpoiledEnd n).cmdOp = r.cmdOp := rfl
@[simp] theorem flagsAtSpoiledEnd_cmdLevel (r : Regs) (n : Nat) : (r.flagsAtSpoiledEnd n).cmdLevel = r.cmdLevel := rfl
@[simp] theorem flagsAtSpoiledEnd_overrun (r : Regs) (n : Nat) : (r.flagsAtSpoiledEnd n).overrun = r.overrun := rfl
@[simp] theorem flagsAtSpoiledEnd_srcAddr (r : Regs) (n : Nat) : (r.flagsAtSpoiledEnd n).srcAddr = r.srcAddr := rfl
@[simp] theorem flagsAtSpoiledEnd_srcLen (r : Regs) (n : Nat) : (r.flagsAtSpoiledEnd n).srcLen = r.srcLen := rfl
@[simp] theorem flagsAtSpoiledEnd_dstAddr (r : Regs) (n : Nat) : (r.flagsAtSpoiledEnd n).dstAddr = r.dstAddr := rfl
@[simp] theorem flagsAtSpoiledEnd_dstCap (r : Regs) (n : Nat) : (r.flagsAtSpoiledEnd n).dstCap = r.dstCap := rfl
@[simp] theorem flagsAtSpoiledEnd_doneIe (r : Regs) (n : Nat) : (r.flagsAtSpoiledEnd n).doneIe = r.doneIe := rfl
@[simp] theorem flagsAtSpoiledEnd_errIe (r : Regs) (n : Nat) : (r.flagsAtSpoiledEnd n).errIe = r.errIe := rfl
@[simp] theorem flagsAtSpoiledEnd_busy (r : Regs) (n : Nat) : (r.flagsAtSpoiledEnd n).busy = false := rfl
@[simp] theorem flagsAtSpoiledEnd_err (r : Regs) (n : Nat) :
    (r.flagsAtSpoiledEnd n).err = !(r.flagsAtSpoiledEnd n).done := rfl

/-! `State.forgetDst` -/

@[simp] theorem forgetDst_regs (s : State) : (s.forgetDst).regs = s.regs := rfl
@[simp] theorem forgetDst_lat (s : State) : (s.forgetDst).lat = s.lat := rfl
@[simp] theorem forgetDst_mf (s : State) : (s.forgetDst).mf = s.mf := rfl
@[simp] theorem forgetDst_buf (s : State) : (s.forgetDst).buf = s.buf := rfl
@[simp] theorem forgetDst_tab (s : State) : (s.forgetDst).tab = s.tab := rfl
@[simp] theorem forgetDst_cache (s : State) : (s.forgetDst).cache = s.cache := rfl
@[simp] theorem forgetDst_snap (s : State) : (s.forgetDst).snap = s.snap := rfl
@[simp] theorem forgetDst_wr (s : State) : (s.forgetDst).wr = s.wr := rfl
@[simp] theorem forgetDst_rd (s : State) : (s.forgetDst).rd = s.rd := rfl
@[simp] theorem forgetDst_dec (s : State) : (s.forgetDst).dec = s.dec := rfl
@[simp] theorem forgetDst_mem (s : State) : (s.forgetDst).mem = s.mem.forget s.lat.dst s.lat.cap (s.fresh + 1) := rfl
@[simp] theorem forgetDst_phase (s : State) : (s.forgetDst).phase = s.phase := rfl
@[simp] theorem forgetDst_made (s : State) : (s.forgetDst).made = s.made := rfl
@[simp] theorem forgetDst_fresh (s : State) : (s.forgetDst).fresh = s.fresh + 1 := rfl
@[simp] theorem forgetDst_tainted (s : State) : (s.forgetDst).tainted = s.tainted := rfl
@[simp] theorem forgetDst_inputs (s : State) : (s.forgetDst).inputs = s.inputs := rfl
@[simp] theorem forgetDst_hostData (s : State) : (s.forgetDst).hostData = s.hostData := rfl

/-! `State.withWork` -/

@[simp] theorem withWork_regs (s : State) (w : Work) : (s.withWork w).regs = s.regs := rfl
@[simp] theorem withWork_lat (s : State) (w : Work) : (s.withWork w).lat = s.lat := rfl
@[simp] theorem withWork_mf (s : State) (w : Work) : (s.withWork w).mf = w.mf := rfl
@[simp] theorem withWork_buf (s : State) (w : Work) : (s.withWork w).buf = w.buf := rfl
@[simp] theorem withWork_tab (s : State) (w : Work) : (s.withWork w).tab = w.tab := rfl
@[simp] theorem withWork_cache (s : State) (w : Work) : (s.withWork w).cache = w.cache := rfl
@[simp] theorem withWork_snap (s : State) (w : Work) : (s.withWork w).snap = w.snap := rfl
@[simp] theorem withWork_wr (s : State) (w : Work) : (s.withWork w).wr = w.wr := rfl
@[simp] theorem withWork_rd (s : State) (w : Work) : (s.withWork w).rd = s.rd := rfl
@[simp] theorem withWork_dec (s : State) (w : Work) : (s.withWork w).dec = s.dec := rfl
@[simp] theorem withWork_mem (s : State) (w : Work) : (s.withWork w).mem = w.mem := rfl
@[simp] theorem withWork_phase (s : State) (w : Work) : (s.withWork w).phase = s.phase := rfl
@[simp] theorem withWork_made (s : State) (w : Work) : (s.withWork w).made = s.made := rfl
@[simp] theorem withWork_fresh (s : State) (w : Work) : (s.withWork w).fresh = s.fresh := rfl
@[simp] theorem withWork_tainted (s : State) (w : Work) : (s.withWork w).tainted = s.tainted := rfl
@[simp] theorem withWork_inputs (s : State) (w : Work) : (s.withWork w).inputs = s.inputs := rfl
@[simp] theorem withWork_hostData (s : State) (w : Work) : (s.withWork w).hostData = s.hostData := rfl

/-! `State.copyMatch` -/

@[simp] theorem copyMatch_regs (s : State) (len d : Nat) : (s.copyMatch len d).regs = s.regs := rfl
@[simp] theorem copyMatch_lat (s : State) (len d : Nat) : (s.copyMatch len d).lat = s.lat := rfl
@[simp] theorem copyMatch_mf (s : State) (len d : Nat) : (s.copyMatch len d).mf = s.mf := rfl
@[simp] theorem copyMatch_buf (s : State) (len d : Nat) : (s.copyMatch len d).buf = s.buf := rfl
@[simp] theorem copyMatch_tab (s : State) (len d : Nat) : (s.copyMatch len d).tab = s.tab := rfl
@[simp] theorem copyMatch_cache (s : State) (len d : Nat) : (s.copyMatch len d).cache = s.cache := rfl
@[simp] theorem copyMatch_snap (s : State) (len d : Nat) : (s.copyMatch len d).snap = s.snap := rfl
@[simp] theorem copyMatch_wr (s : State) (len d : Nat) : (s.copyMatch len d).wr = s.wr := rfl
@[simp] theorem copyMatch_rd (s : State) (len d : Nat) : (s.copyMatch len d).rd = s.rd := rfl
@[simp] theorem copyMatch_dec (s : State) (len d : Nat) :
    (s.copyMatch len d).dec = { s.dec with out := s.dec.out + BitVec.ofNat 32 len } := rfl
@[simp] theorem copyMatch_mem (s : State) (len d : Nat) :
    (s.copyMatch len d).mem = Memory.copyForward (s.lat.dst + s.dec.out) (s.lat.dst + (s.dec.out - BitVec.ofNat 32 d)) len 0 s.mem := rfl
@[simp] theorem copyMatch_phase (s : State) (len d : Nat) : (s.copyMatch len d).phase = s.phase := rfl
@[simp] theorem copyMatch_made (s : State) (len d : Nat) : (s.copyMatch len d).made = s.made := rfl
@[simp] theorem copyMatch_fresh (s : State) (len d : Nat) : (s.copyMatch len d).fresh = s.fresh := rfl
@[simp] theorem copyMatch_tainted (s : State) (len d : Nat) : (s.copyMatch len d).tainted = s.tainted := rfl
@[simp] theorem copyMatch_inputs (s : State) (len d : Nat) : (s.copyMatch len d).inputs = s.inputs := rfl
@[simp] theorem copyMatch_hostData (s : State) (len d : Nat) : (s.copyMatch len d).hostData = s.hostData := rfl

/-! `State.storedForm` -/

@[simp] theorem storedForm_regs (s : State) : (s.storedForm).regs = s.regs := rfl
@[simp] theorem storedForm_lat (s : State) : (s.storedForm).lat = s.lat := rfl
@[simp] theorem storedForm_mf (s : State) : (s.storedForm).mf = s.mf := rfl
@[simp] theorem storedForm_buf (s : State) : (s.storedForm).buf = s.buf := rfl
@[simp] theorem storedForm_tab (s : State) : (s.storedForm).tab = s.tab := rfl
@[simp] theorem storedForm_cache (s : State) : (s.storedForm).cache = s.cache := rfl
@[simp] theorem storedForm_snap (s : State) : (s.storedForm).snap = s.snap := rfl
@[simp] theorem storedForm_wr (s : State) : (s.storedForm).wr = s.wr := rfl
@[simp] theorem storedForm_rd (s : State) : (s.storedForm).rd = s.rd := rfl
@[simp] theorem storedForm_dec (s : State) : (s.storedForm).dec = s.dec := rfl
@[simp] theorem storedForm_mem (s : State) :
    (s.storedForm).mem = Memory.copyForward (s.lat.dst + 4) s.lat.src s.lat.n.toNat 0 (s.mem.writeWord s.lat.dst (-s.lat.n)) := rfl
@[simp] theorem storedForm_phase (s : State) : (s.storedForm).phase = s.phase := rfl
@[simp] theorem storedForm_made (s : State) : (s.storedForm).made = s.made := rfl
@[simp] theorem storedForm_fresh (s : State) : (s.storedForm).fresh = s.fresh := rfl
@[simp] theorem storedForm_tainted (s : State) : (s.storedForm).tainted = s.tainted := rfl
@[simp] theorem storedForm_inputs (s : State) : (s.storedForm).inputs = s.inputs := rfl
@[simp] theorem storedForm_hostData (s : State) : (s.storedForm).hostData = s.hostData := rfl

/-! `State.startCommand` -/

@[simp] theorem startCommand_mf (s : State) (v : Word) : (s.startCommand v).mf = s.mf := rfl
@[simp] theorem startCommand_buf (s : State) (v : Word) : (s.startCommand v).buf = s.buf := rfl
@[simp] theorem startCommand_tab (s : State) (v : Word) : (s.startCommand v).tab = s.tab := rfl
@[simp] theorem startCommand_cache (s : State) (v : Word) : (s.startCommand v).cache = s.cache := rfl
@[simp] theorem startCommand_snap (s : State) (v : Word) : (s.startCommand v).snap = s.snap := rfl
@[simp] theorem startCommand_wr (s : State) (v : Word) : (s.startCommand v).wr = s.wr := rfl
@[simp] theorem startCommand_rd (s : State) (v : Word) : (s.startCommand v).rd = s.rd := rfl
@[simp] theorem startCommand_dec (s : State) (v : Word) : (s.startCommand v).dec = s.dec := rfl
@[simp] theorem startCommand_mem (s : State) (v : Word) : (s.startCommand v).mem = s.mem := rfl
@[simp] theorem startCommand_phase (s : State) (v : Word) : (s.startCommand v).phase = .start := rfl
@[simp] theorem startCommand_made (s : State) (v : Word) : (s.startCommand v).made = s.made := rfl
@[simp] theorem startCommand_fresh (s : State) (v : Word) : (s.startCommand v).fresh = s.fresh := rfl
@[simp] theorem startCommand_tainted (s : State) (v : Word) : (s.startCommand v).tainted = false := rfl
@[simp] theorem startCommand_inputs (s : State) (v : Word) : (s.startCommand v).inputs = s.inputs := rfl
@[simp] theorem startCommand_hostData (s : State) (v : Word) : (s.startCommand v).hostData = s.hostData := rfl

/-! `State.erredWith` -/

@[simp] theorem erredWith_lat (s : State) (c : BitVec 4) (i : Word) : (s.erredWith c i).lat = s.lat := rfl
@[simp] theorem erredWith_mf (s : State) (c : BitVec 4) (i : Word) : (s.erredWith c i).mf = s.mf := rfl
@[simp] theorem erredWith_buf (s : State) (c : BitVec 4) (i : Word) : (s.erredWith c i).buf = s.buf := rfl
@[simp] theorem erredWith_tab (s : State) (c : BitVec 4) (i : Word) : (s.erredWith c i).tab = s.tab := rfl
@[simp] theorem erredWith_cache (s : State) (c : BitVec 4) (i : Word) : (s.erredWith c i).cache = s.cache := rfl
@[simp] theorem erredWith_snap (s : State) (c : BitVec 4) (i : Word) : (s.erredWith c i).snap = s.snap := rfl
@[simp] theorem erredWith_wr (s : State) (c : BitVec 4) (i : Word) : (s.erredWith c i).wr = s.wr := rfl
@[simp] theorem erredWith_rd (s : State) (c : BitVec 4) (i : Word) : (s.erredWith c i).rd = s.rd := rfl
@[simp] theorem erredWith_dec (s : State) (c : BitVec 4) (i : Word) : (s.erredWith c i).dec = s.dec := rfl
@[simp] theorem erredWith_mem (s : State) (c : BitVec 4) (i : Word) : (s.erredWith c i).mem = s.mem := rfl
@[simp] theorem erredWith_phase (s : State) (c : BitVec 4) (i : Word) : (s.erredWith c i).phase = .idle := rfl
@[simp] theorem erredWith_made (s : State) (c : BitVec 4) (i : Word) : (s.erredWith c i).made = s.made := rfl
@[simp] theorem erredWith_fresh (s : State) (c : BitVec 4) (i : Word) : (s.erredWith c i).fresh = s.fresh := rfl
@[simp] theorem erredWith_tainted (s : State) (c : BitVec 4) (i : Word) : (s.erredWith c i).tainted = s.tainted := rfl
@[simp] theorem erredWith_inputs (s : State) (c : BitVec 4) (i : Word) : (s.erredWith c i).inputs = s.inputs := rfl
@[simp] theorem erredWith_hostData (s : State) (c : BitVec 4) (i : Word) :
    (s.erredWith c i).hostData = s.hostData := rfl

/-! `State.doneWith` -/

@[simp] theorem doneWith_lat (s : State) (l : Word) (a b : Bool) : (s.doneWith l a b).lat = s.lat := rfl
@[simp] theorem doneWith_mf (s : State) (l : Word) (a b : Bool) : (s.doneWith l a b).mf = s.mf := rfl
@[simp] theorem doneWith_buf (s : State) (l : Word) (a b : Bool) : (s.doneWith l a b).buf = s.buf := rfl
@[simp] theorem doneWith_tab (s : State) (l : Word) (a b : Bool) : (s.doneWith l a b).tab = s.tab := rfl
@[simp] theorem doneWith_cache (s : State) (l : Word) (a b : Bool) : (s.doneWith l a b).cache = s.cache := rfl
@[simp] theorem doneWith_snap (s : State) (l : Word) (a b : Bool) : (s.doneWith l a b).snap = s.snap := rfl
@[simp] theorem doneWith_wr (s : State) (l : Word) (a b : Bool) : (s.doneWith l a b).wr = s.wr := rfl
@[simp] theorem doneWith_rd (s : State) (l : Word) (a b : Bool) : (s.doneWith l a b).rd = s.rd := rfl
@[simp] theorem doneWith_dec (s : State) (l : Word) (a b : Bool) : (s.doneWith l a b).dec = s.dec := rfl
@[simp] theorem doneWith_mem (s : State) (l : Word) (a b : Bool) : (s.doneWith l a b).mem = s.mem := rfl
@[simp] theorem doneWith_phase (s : State) (l : Word) (a b : Bool) : (s.doneWith l a b).phase = .idle := rfl
@[simp] theorem doneWith_made (s : State) (l : Word) (a b : Bool) : (s.doneWith l a b).made = s.made := rfl
@[simp] theorem doneWith_fresh (s : State) (l : Word) (a b : Bool) : (s.doneWith l a b).fresh = s.fresh := rfl
@[simp] theorem doneWith_tainted (s : State) (l : Word) (a b : Bool) : (s.doneWith l a b).tainted = s.tainted := rfl
@[simp] theorem doneWith_inputs (s : State) (l : Word) (a b : Bool) : (s.doneWith l a b).inputs = s.inputs := rfl
@[simp] theorem doneWith_hostData (s : State) (l : Word) (a b : Bool) :
    (s.doneWith l a b).hostData = s.hostData := rfl

/-! The compressor's part of a state -/

@[simp] theorem work_mf (s : State) : s.work.mf = s.mf := rfl
@[simp] theorem work_buf (s : State) : s.work.buf = s.buf := rfl
@[simp] theorem work_tab (s : State) : s.work.tab = s.tab := rfl
@[simp] theorem work_cache (s : State) : s.work.cache = s.cache := rfl
@[simp] theorem work_snap (s : State) : s.work.snap = s.snap := rfl
@[simp] theorem work_wr (s : State) : s.work.wr = s.wr := rfl
@[simp] theorem work_mem (s : State) : s.work.mem = s.mem := rfl

/-! The cache's updates -/

@[simp] theorem cache_push_r0 (c : Cache) (d : Nat) : (c.push d).r0 = BitVec.ofNat 20 d := rfl
@[simp] theorem cache_push_r1 (c : Cache) (d : Nat) : (c.push d).r1 = c.r0 := rfl
@[simp] theorem cache_push_r2 (c : Cache) (d : Nat) : (c.push d).r2 = c.r1 := rfl
@[simp] theorem cache_swap_r0 (c : Cache) : (c.swap).r0 = c.r1 := rfl
@[simp] theorem cache_swap_r1 (c : Cache) : (c.swap).r1 = c.r0 := rfl
@[simp] theorem cache_swap_r2 (c : Cache) : (c.swap).r2 = c.r2 := rfl
@[simp] theorem cache_rotate_r0 (c : Cache) : (c.rotate).r0 = c.r2 := rfl
@[simp] theorem cache_rotate_r1 (c : Cache) : (c.rotate).r1 = c.r0 := rfl
@[simp] theorem cache_rotate_r2 (c : Cache) : (c.rotate).r2 = c.r1 := rfl

/-! What the ends of a command keep, whether or not the host spoiled it -/

@[simp] theorem loseDst_regs (s : State) : s.loseDst.regs = s.regs := by
  unfold State.loseDst; split <;> rfl
@[simp] theorem loseDst_phase (s : State) : s.loseDst.phase = s.phase := by
  unfold State.loseDst; split <;> rfl
@[simp] theorem loseDst_lat (s : State) : s.loseDst.lat = s.lat := by
  unfold State.loseDst; split <;> rfl
@[simp] theorem loseDst_mf (s : State) : s.loseDst.mf = s.mf := by
  unfold State.loseDst; split <;> rfl
@[simp] theorem loseDst_buf (s : State) : s.loseDst.buf = s.buf := by
  unfold State.loseDst; split <;> rfl
@[simp] theorem loseDst_tab (s : State) : s.loseDst.tab = s.tab := by
  unfold State.loseDst; split <;> rfl
@[simp] theorem loseDst_cache (s : State) : s.loseDst.cache = s.cache := by
  unfold State.loseDst; split <;> rfl
@[simp] theorem loseDst_snap (s : State) : s.loseDst.snap = s.snap := by
  unfold State.loseDst; split <;> rfl
@[simp] theorem loseDst_wr (s : State) : s.loseDst.wr = s.wr := by
  unfold State.loseDst; split <;> rfl
@[simp] theorem loseDst_rd (s : State) : s.loseDst.rd = s.rd := by
  unfold State.loseDst; split <;> rfl
@[simp] theorem loseDst_dec (s : State) : s.loseDst.dec = s.dec := by
  unfold State.loseDst; split <;> rfl
@[simp] theorem loseDst_made (s : State) : s.loseDst.made = s.made := by
  unfold State.loseDst; split <;> rfl
@[simp] theorem loseDst_tainted (s : State) : s.loseDst.tainted = s.tainted := by
  unfold State.loseDst; split <;> rfl
@[simp] theorem loseDst_inputs (s : State) : s.loseDst.inputs = s.inputs := by
  unfold State.loseDst; split <;> rfl
@[simp] theorem loseDst_hostData (s : State) : s.loseDst.hostData = s.hostData := by
  unfold State.loseDst; split <;> rfl
@[simp] theorem endSpoiled_lat (s : State) : s.endSpoiled.lat = s.lat := by
  simp [State.endSpoiled]
@[simp] theorem endSpoiled_mf (s : State) : s.endSpoiled.mf = s.mf := by
  simp [State.endSpoiled]
@[simp] theorem endSpoiled_buf (s : State) : s.endSpoiled.buf = s.buf := by
  simp [State.endSpoiled]
@[simp] theorem endSpoiled_tab (s : State) : s.endSpoiled.tab = s.tab := by
  simp [State.endSpoiled]
@[simp] theorem endSpoiled_cache (s : State) : s.endSpoiled.cache = s.cache := by
  simp [State.endSpoiled]
@[simp] theorem endSpoiled_snap (s : State) : s.endSpoiled.snap = s.snap := by
  simp [State.endSpoiled]
@[simp] theorem endSpoiled_wr (s : State) : s.endSpoiled.wr = s.wr := by
  simp [State.endSpoiled]
@[simp] theorem endSpoiled_rd (s : State) : s.endSpoiled.rd = s.rd := by
  simp [State.endSpoiled]
@[simp] theorem endSpoiled_dec (s : State) : s.endSpoiled.dec = s.dec := by
  simp [State.endSpoiled]
@[simp] theorem endSpoiled_made (s : State) : s.endSpoiled.made = s.made := by
  simp [State.endSpoiled]
@[simp] theorem endSpoiled_tainted (s : State) : s.endSpoiled.tainted = s.tainted := by
  simp [State.endSpoiled]
@[simp] theorem endSpoiled_inputs (s : State) : s.endSpoiled.inputs = s.inputs := by
  simp [State.endSpoiled]
@[simp] theorem endSpoiled_hostData (s : State) : s.endSpoiled.hostData = s.hostData := by
  simp [State.endSpoiled]
@[simp] theorem endSpoiled_phase (s : State) : s.endSpoiled.phase = .idle := rfl
@[simp] theorem endSpoiled_busy (s : State) : s.endSpoiled.regs.busy = false := rfl
@[simp] theorem complete_lat (s : State) (l : Word) (a b : Bool) : (s.complete l a b).lat = s.lat := by
  unfold State.complete; split <;> simp
@[simp] theorem complete_mf (s : State) (l : Word) (a b : Bool) : (s.complete l a b).mf = s.mf := by
  unfold State.complete; split <;> simp
@[simp] theorem complete_buf (s : State) (l : Word) (a b : Bool) : (s.complete l a b).buf = s.buf := by
  unfold State.complete; split <;> simp
@[simp] theorem complete_tab (s : State) (l : Word) (a b : Bool) : (s.complete l a b).tab = s.tab := by
  unfold State.complete; split <;> simp
@[simp] theorem complete_cache (s : State) (l : Word) (a b : Bool) : (s.complete l a b).cache = s.cache := by
  unfold State.complete; split <;> simp
@[simp] theorem complete_snap (s : State) (l : Word) (a b : Bool) : (s.complete l a b).snap = s.snap := by
  unfold State.complete; split <;> simp
@[simp] theorem complete_wr (s : State) (l : Word) (a b : Bool) : (s.complete l a b).wr = s.wr := by
  unfold State.complete; split <;> simp
@[simp] theorem complete_rd (s : State) (l : Word) (a b : Bool) : (s.complete l a b).rd = s.rd := by
  unfold State.complete; split <;> simp
@[simp] theorem complete_dec (s : State) (l : Word) (a b : Bool) : (s.complete l a b).dec = s.dec := by
  unfold State.complete; split <;> simp
@[simp] theorem complete_made (s : State) (l : Word) (a b : Bool) : (s.complete l a b).made = s.made := by
  unfold State.complete; split <;> simp
@[simp] theorem complete_tainted (s : State) (l : Word) (a b : Bool) : (s.complete l a b).tainted = s.tainted := by
  unfold State.complete; split <;> simp
@[simp] theorem complete_inputs (s : State) (l : Word) (a b : Bool) : (s.complete l a b).inputs = s.inputs := by
  unfold State.complete; split <;> simp
@[simp] theorem complete_hostData (s : State) (l : Word) (a b : Bool) : (s.complete l a b).hostData = s.hostData := by
  unfold State.complete; split <;> simp
@[simp] theorem complete_phase (s : State) (l : Word) (a b : Bool) : (s.complete l a b).phase = .idle := by
  unfold State.complete; split <;> simp
@[simp] theorem complete_busy (s : State) (l : Word) (a b : Bool) : (s.complete l a b).regs.busy = false := by
  unfold State.complete; split <;> simp
@[simp] theorem raiseError_lat (s : State) (e : ErrCode) (i : Word) : (s.raiseError e i).lat = s.lat := by
  unfold State.raiseError; split <;> simp
@[simp] theorem raiseError_mf (s : State) (e : ErrCode) (i : Word) : (s.raiseError e i).mf = s.mf := by
  unfold State.raiseError; split <;> simp
@[simp] theorem raiseError_buf (s : State) (e : ErrCode) (i : Word) : (s.raiseError e i).buf = s.buf := by
  unfold State.raiseError; split <;> simp
@[simp] theorem raiseError_tab (s : State) (e : ErrCode) (i : Word) : (s.raiseError e i).tab = s.tab := by
  unfold State.raiseError; split <;> simp
@[simp] theorem raiseError_cache (s : State) (e : ErrCode) (i : Word) : (s.raiseError e i).cache = s.cache := by
  unfold State.raiseError; split <;> simp
@[simp] theorem raiseError_snap (s : State) (e : ErrCode) (i : Word) : (s.raiseError e i).snap = s.snap := by
  unfold State.raiseError; split <;> simp
@[simp] theorem raiseError_wr (s : State) (e : ErrCode) (i : Word) : (s.raiseError e i).wr = s.wr := by
  unfold State.raiseError; split <;> simp
@[simp] theorem raiseError_rd (s : State) (e : ErrCode) (i : Word) : (s.raiseError e i).rd = s.rd := by
  unfold State.raiseError; split <;> simp
@[simp] theorem raiseError_dec (s : State) (e : ErrCode) (i : Word) : (s.raiseError e i).dec = s.dec := by
  unfold State.raiseError; split <;> simp
@[simp] theorem raiseError_made (s : State) (e : ErrCode) (i : Word) : (s.raiseError e i).made = s.made := by
  unfold State.raiseError; split <;> simp
@[simp] theorem raiseError_tainted (s : State) (e : ErrCode) (i : Word) : (s.raiseError e i).tainted = s.tainted := by
  unfold State.raiseError; split <;> simp
@[simp] theorem raiseError_inputs (s : State) (e : ErrCode) (i : Word) : (s.raiseError e i).inputs = s.inputs := by
  unfold State.raiseError; split <;> simp
@[simp] theorem raiseError_hostData (s : State) (e : ErrCode) (i : Word) : (s.raiseError e i).hostData = s.hostData := by
  unfold State.raiseError; split <;> simp
@[simp] theorem raiseError_phase (s : State) (e : ErrCode) (i : Word) : (s.raiseError e i).phase = .idle := by
  unfold State.raiseError; split <;> simp
@[simp] theorem raiseError_busy (s : State) (e : ErrCode) (i : Word) : (s.raiseError e i).regs.busy = false := by
  unfold State.raiseError; split <;> simp

end Sys2Proof.Laws
end

