-- ==== Sys2Proof/Laws/Ops.lean ====
section
/-! SUPPORT. What each shared operation can do: the ends of a command (60_exceptions.md R904, 49_host_commands.md R813), the
dispatch of tokens to their shared operations, and what each leaves in memory. -/

namespace Sys2Proof.Laws

open Sys2Proof Sys2Proof.Machine

/-! Ends of a command. -/

theorem complete_of_untainted {s : State} (h : s.tainted = false) (len : Word) (a b : Bool) :
    s.complete len a b = s.doneWith len a b := by
  unfold State.complete; rw [if_neg (by simp [h])]; rfl

theorem raiseError_of_untainted {s : State} (h : s.tainted = false) (e : ErrCode) (info : Word) :
    s.raiseError e info = s.loseDst.erredWith e.code info := by
  unfold State.raiseError; rw [if_neg (by simp [h])]; rfl

theorem loseDst_of_noDst {s : State} (h : writesDst s.lat.op = false) : s.loseDst = s := by
  unfold State.loseDst; rw [if_neg (by simp [h])]

/-- The error entry of a command without a destination changes no byte and draws no free value. -/
theorem raiseError_of_noDst {s : State} (h : s.tainted = false) (hd : writesDst s.lat.op = false) (e : ErrCode)
    (info : Word) : s.raiseError e info = s.erredWith e.code info := by
  rw [raiseError_of_untainted h, loseDst_of_noDst hd]

theorem sameOutside_refl (m : Memory) (a len : Word) : SameOutside m m a len := fun _ _ => rfl

theorem SameOutside.trans {m1 m2 m3 : Memory} {a len : Word} (h1 : SameOutside m1 m2 a len)
    (h2 : SameOutside m2 m3 a len) : SameOutside m1 m3 a len := fun x hx => (h2 x hx).trans (h1 x hx)

theorem forgetDst_sameOutside (s : State) : SameOutside s.mem s.forgetDst.mem s.lat.dst s.lat.cap :=
  fun x hx => read_forget_outside s.mem _ _ x _ hx

/-- The bytes of an unwrapped range are inside it. -/
theorem inRange_of_offset {a len : Word} {j : Nat} (hw : a.toNat + len.toNat ≤ 2 ^ 32) (hj : j < len.toNat) :
    inRange (a + BitVec.ofNat 32 j) a len = true := by
  have hl := len.isLt
  have e : (a + BitVec.ofNat 32 j).toNat = a.toNat + j := by
    rw [BitVec.toNat_add, BitVec.toNat_ofNat]; omega
  simp only [inRange, e, decide_eq_true_eq]; omega

/-- A write at an offset of the range stays inside it. -/
theorem SameExcept.sameOutside {m m' : Memory} {a len : Word} {off k : Nat} (h : SameExcept m m' (a + BitVec.ofNat 32 off) k)
    (hw : a.toNat + len.toNat ≤ 2 ^ 32) (hk : off + k ≤ len.toNat) : SameOutside m m' a len := by
  intro x hx
  refine h x (fun j hj e => ?_)
  rw [BitVec.add_assoc, ← BitVec.ofNat_add] at e
  have := inRange_of_offset (j := off + j) hw (by omega)
  rw [← e, hx] at this; cases this

theorem loseDst_sameOutside (s : State) : SameOutside s.mem s.loseDst.mem s.lat.dst s.lat.cap := by
  unfold State.loseDst
  split
  · exact forgetDst_sameOutside s
  · exact sameOutside_refl _ _ _

theorem endSpoiled_sameOutside (s : State) : SameOutside s.mem s.endSpoiled.mem s.lat.dst s.lat.cap :=
  loseDst_sameOutside s

theorem raiseError_sameOutside (s : State) (e : ErrCode) (i : Word) :
    SameOutside s.mem (s.raiseError e i).mem s.lat.dst s.lat.cap := by
  unfold State.raiseError
  split
  · exact endSpoiled_sameOutside s
  · exact loseDst_sameOutside s

theorem complete_sameOutside (s : State) (len : Word) (a b : Bool) :
    SameOutside s.mem (s.complete len a b).mem s.lat.dst s.lat.cap := by
  unfold State.complete
  split
  · exact endSpoiled_sameOutside s
  · exact sameOutside_refl _ _ _

/-- An error of an undisturbed command: its registers, and what it keeps. -/
theorem raiseError_erred {s : State} (h : s.tainted = false) (e : ErrCode) (info : Word) :
    s.ErredDecode (s.raiseError e info) e.code info := by
  refine ⟨?_, by simp, raiseError_sameOutside s e info, ⟨by simp, by simp, by simp, by simp, by simp⟩,
    by simp, by simp, by simp, by simp⟩
  rw [raiseError_of_untainted h]; simp [State.erredWith]

/-- An error of an undisturbed command changes nothing but the registers, the phase and the destination's bytes. -/
theorem raiseError_erredAny {s : State} (h : s.tainted = false) (e : ErrCode) (info : Word) :
    s.ErredAny (s.raiseError e info) e.code info := by
  refine ⟨s.loseDst.mem, s.loseDst.fresh, ?_, loseDst_sameOutside s⟩
  rw [raiseError_of_untainted h]
  unfold State.loseDst; split <;> rfl

/-! Canonical form. -/

theorem wf_forgetDst {s : State} (h : s.mem.wf = true) : s.forgetDst.mem.wf = true := wf_forget _ _ _ h

theorem wf_loseDst {s : State} (h : s.mem.wf = true) : s.loseDst.mem.wf = true := by
  unfold State.loseDst; split
  · exact wf_forgetDst h
  · exact h

theorem wf_endSpoiled {s : State} (h : s.mem.wf = true) : s.endSpoiled.mem.wf = true := wf_loseDst h

theorem wf_complete {s : State} (h : s.mem.wf = true) (len : Word) (a b : Bool) : (s.complete len a b).mem.wf = true := by
  unfold State.complete; split
  · exact wf_endSpoiled h
  · exact h

theorem wf_raiseError {s : State} (h : s.mem.wf = true) (e : ErrCode) (i : Word) : (s.raiseError e i).mem.wf = true := by
  unfold State.raiseError; split
  · exact wf_endSpoiled h
  · exact wf_loseDst h

theorem wf_storedForm {s : State} (h : s.mem.wf = true) : s.storedForm.mem.wf = true :=
  wf_copyForward _ _ _ _ (wf_writeWord _ _ h)

theorem wf_copyMatch {s : State} (h : s.mem.wf = true) (len d : Nat) : (s.copyMatch len d).mem.wf = true :=
  wf_copyForward _ _ _ _ h

/-! Tokens and their shared operations. -/

theorem exec_of_clsym {i : Instr} (h : (encode i).fmt = .clsym) (s : State) :
    exec i s = s.codeLength (encode i).sym (encode i).x := by
  cases i <;> first | rfl | cases h

theorem exec_of_dsym {i : Instr} (h : (encode i).fmt = .dsym) (s : State) :
    exec i s = s.distanceToken (encode i).sym (encode i).x := by
  cases i <;> first | rfl | cases h

theorem exec_of_llsym {i : Instr} (h : (encode i).fmt = .llsym) (s : State) :
    (∃ b, i = .lit b) ∨ (256 ≤ (encode i).sym ∧ exec i s = s.lengthToken ((encode i).sym - 256) (encode i).x) := by
  cases i <;> first | (cases h; done) | exact .inl ⟨_, rfl⟩ | exact .inr ⟨by simp [encode], by dsimp only [encode]; rfl⟩

/-- What the symbol loop can do. -/
theorem symbolLoop_cases (s : State) :
    (s.dec.bsym.toNat < 8192 ∧ s.dec.out.toNat < s.dec.m.toNat ∧ s.symbolLoop = { s with phase := .symbol }) ∨
    (¬(s.dec.bsym.toNat < 8192 ∧ s.dec.out.toNat < s.dec.m.toNat) ∧ s.symbolLoop = s.blockLoop) := by
  by_cases h : s.dec.bsym.toNat < 8192 ∧ s.dec.out.toNat < s.dec.m.toNat
  · exact .inl ⟨h.1, h.2, if_pos h⟩
  · exact .inr ⟨h, if_neg h⟩

/-- What the block loop can do. -/
theorem blockLoop_cases (s : State) :
    (s.dec.out.toNat < s.dec.m.toNat ∧ s.blockLoop = { s with phase := .block }) ∨
    (¬ s.dec.out.toNat < s.dec.m.toNat ∧ s.blockLoop = s.complete s.dec.m true false) := by
  by_cases h : s.dec.out.toNat < s.dec.m.toNat
  · exact .inl ⟨h, if_pos h⟩
  · exact .inr ⟨h, if_neg h⟩

/-- What a distance token's work can do. -/
theorem distanceWork_cases (s : State) (len c x : Nat) :
    (∃ e t, s.distanceWork len c x = State.raiseError t .corruptInput e ∧ t = { s with cache := t.cache } ∧ e = s.rd.offset) ∨
    (∃ d cache, unmapDist s.cache c x = some (d, cache) ∧ d ≤ s.dec.out.toNat ∧
      len ≤ s.dec.m.toNat - s.dec.out.toNat ∧
      s.distanceWork len c x = ({ s with cache := cache }.copyMatch len d).symbolLoop) := by
  unfold State.distanceWork
  split
  · exact .inl ⟨_, s, rfl, rfl, rfl⟩
  · rename_i d cache h
    simp only
    split
    · exact .inl ⟨_, _, rfl, rfl, rfl⟩
    · split
      · exact .inl ⟨_, _, rfl, rfl, rfl⟩
      · exact .inr ⟨d, cache, h, by omega, by omega, rfl⟩

/-- What the header's work can do before its form is looked at (49_host_commands.md R804). -/
theorem withHeader_cases (s : State) (h : Word) (f : State → State) :
    (s.lat.cap.toNat < (headerMagnitude h).toNat ∧ s.withHeader h f = s.raiseError .insufficientDestination 0) ∨
    ((headerMagnitude h).toNat ≤ s.lat.cap.toNat ∧
      s.withHeader h f = f { s with dec := { s.dec with m := headerMagnitude h } }) := by
  by_cases hc : s.lat.cap.toNat < (headerMagnitude h).toNat
  · exact .inl ⟨hc, if_pos hc⟩
  · exact .inr ⟨by omega, if_neg hc⟩

/-- The engine's turn runs its instruction. -/
theorem step_of_engineTurn {s : State} (h : s.engineTurn) : step s = engineStep s.taken := by
  rcases h with h | ⟨rest, h⟩
  · have e : s.taken = { s with made := 0 } := by simp [State.taken, State.entryTaken, h]
    have e1 : step s = engineRest s := by simp only [step, h]
    rw [e1, e]; rfl
  · unfold step State.taken State.entryTaken; rw [h]; rfl

/-- A tick makes one access of host memory, or ends the instruction as the engine's turn does (R958). -/
theorem step_of_tickTurn {s : State} (h : s.tickTurn) :
    (∃ a ∈ accesses s.entryTaken, (accesses s.entryTaken)[s.made]? = some a ∧
      step s = .next { s.entryTaken with mem := a.onMemory s.mem, made := s.made + 1 }) ∨
    ((accesses s.entryTaken).length ≤ s.made ∧ step s = engineStep s.taken) := by
  obtain ⟨rest, h⟩ := h
  have e : step s = engineTick s.entryTaken := by unfold step State.entryTaken; rw [h]; rfl
  rw [e]; unfold engineTick
  split
  · rename_i a ha
    exact .inl ⟨a, List.mem_of_getElem? ha, ha, rfl⟩
  · rename_i ha
    exact .inr ⟨List.getElem?_eq_none_iff.mp ha, rfl⟩

/-- An engine step that answers runs an instruction, ends in a decoding error, or waits. -/
theorem engineStep_cases {s t : State} (h : engineStep s = .next t) :
    (s.phase = .idle ∧ t = s) ∨
    (∃ i, s.phase = .start ∧ i = decodeCommand s.lat.commandWord ∧ exec i s = .next t) ∨
    (∃ i, s.phase = .header ∧ i = decodeHeader (s.mem.readWord s.lat.src) ∧ exec i s = .next t) ∨
    (∃ i r, s.phase = .block ∧ readBlockType s.mem s.rd = .ok (i, r) ∧ exec i { s with rd := r } = .next t) ∨
    (∃ q count j i r, s.phase = .rle q count j ∧
      readToken s.mem .clsym s.dec.clTree (fun t => decide (t < 15 ∨ 0 < j)) s.rd = .ok (i, r) ∧
      exec i { s with rd := r } = .next t) ∨
    (∃ i r, s.phase = .symbol ∧ readToken s.mem .llsym s.dec.litTree (fun _ => true) s.rd = .ok (i, r) ∧
      exec i { s with rd := r } = .next t) ∨
    (∃ len i r, s.phase = .dist len ∧ readToken s.mem .dsym s.dec.distTree (fun _ => true) s.rd = .ok (i, r) ∧
      exec i { s with rd := r } = .next t) ∨
    (∃ e info, s.phase ≠ .idle ∧ s.phase ≠ .start ∧ s.phase ≠ .header ∧ t = s.raiseError e info) := by
  have stop : ∀ e : Stop, State.stopWith s e = .next t → ∃ c info, t = s.raiseError c info := by
    intro e he
    cases e with
    | error c info => simp only [State.stopWith] at he; cases he; exact ⟨c, info, rfl⟩
    | fault f => cases he
    | refusal r => cases he
  unfold engineStep at h
  cases hp : s.phase with
  | idle => simp only [fetch, hp] at h; cases h; exact .inl ⟨rfl, rfl⟩
  | start => simp only [fetch, hp] at h; exact .inr (.inl ⟨_, rfl, rfl, h⟩)
  | header => simp only [fetch, hp] at h; exact .inr (.inr (.inl ⟨_, rfl, rfl, h⟩))
  | block =>
    simp only [fetch, hp, fetched] at h
    cases hr : readBlockType s.mem s.rd with
    | ok v => rw [hr] at h; exact .inr (.inr (.inr (.inl ⟨v.1, v.2, rfl, rfl, h⟩)))
    | error e =>
      rw [hr] at h; obtain ⟨c, info, rfl⟩ := stop e h
      exact .inr (.inr (.inr (.inr (.inr (.inr (.inr ⟨c, info, by simp, by simp, by simp, rfl⟩))))))
  | rle q count j =>
    simp only [fetch, hp, fetched] at h
    cases hr : readToken s.mem .clsym s.dec.clTree (fun t => decide (t < 15 ∨ 0 < j)) s.rd with
    | ok v => rw [hr] at h; exact .inr (.inr (.inr (.inr (.inl ⟨q, count, j, v.1, v.2, rfl, hr, h⟩))))
    | error e =>
      rw [hr] at h; obtain ⟨c, info, rfl⟩ := stop e h
      exact .inr (.inr (.inr (.inr (.inr (.inr (.inr ⟨c, info, by simp, by simp, by simp, rfl⟩))))))
  | symbol =>
    simp only [fetch, hp, fetched] at h
    cases hr : readToken s.mem .llsym s.dec.litTree (fun _ => true) s.rd with
    | ok v => rw [hr] at h; exact .inr (.inr (.inr (.inr (.inr (.inl ⟨v.1, v.2, rfl, rfl, h⟩)))))
    | error e =>
      rw [hr] at h; obtain ⟨c, info, rfl⟩ := stop e h
      exact .inr (.inr (.inr (.inr (.inr (.inr (.inr ⟨c, info, by simp, by simp, by simp, rfl⟩))))))
  | dist len =>
    simp only [fetch, hp, fetched] at h
    cases hr : readToken s.mem .dsym s.dec.distTree (fun _ => true) s.rd with
    | ok v => rw [hr] at h; exact .inr (.inr (.inr (.inr (.inr (.inr (.inl ⟨len, v.1, v.2, rfl, rfl, h⟩))))))
    | error e =>
      rw [hr] at h; obtain ⟨c, info, rfl⟩ := stop e h
      exact .inr (.inr (.inr (.inr (.inr (.inr (.inr ⟨c, info, by simp, by simp, by simp, rfl⟩))))))

/-- Every entry of an instruction list of one format has that format. -/
theorem fmt_of_mem {l : List Instr} {n k : Nat} {f : Format} {i : Instr}
    (h : l.map (fun i => (encode i).fmt) = List.replicate n f) (hi : l[k]? = some i) : (encode i).fmt = f := by
  have hm := List.mem_map_of_mem (f := fun i => (encode i).fmt) (List.mem_of_getElem? hi)
  rw [h] at hm
  exact (List.mem_replicate.mp hm).2

/-- The format of a decoded token is the format it was decoded in. -/
theorem fmt_of_decodeSym {f : Format} {sym x : Nat} {i : Instr} (h : decodeSym f sym x = .ok i) : (encode i).fmt = f := by
  unfold decodeSym at h
  split at h
  · cases h
  · cases f with
    | cmdw =>
      cases h; unfold decodeCommand; simp only
      repeat (split <;> try rfl)
    | hdr =>
      cases h; unfold decodeHeader
      repeat (split <;> try rfl)
    | btype => cases h; split <;> rfl
    | clsym =>
      simp only at h
      split at h
      · rename_i j hj; cases h
        exact fmt_of_mem (n := 20) rfl hj
      · cases h
    | llsym =>
      simp only at h
      split at h
      · cases h; rfl
      · split at h
        · rename_i j hj; cases h
          exact fmt_of_mem (n := 64) rfl hj
        · cases h
    | dsym =>
      simp only at h
      split at h
      · rename_i j hj; cases h
        exact fmt_of_mem (n := 64) rfl hj
      · cases h

end Sys2Proof.Laws
end

