-- ==== Sys2Proof/Laws/Exec.lean ====
section
/-! SUPPORT. What an instruction can do, once for all instructions: the cases of a step that answers, and what each case's
work answers. The provers cite these and do not unfold `exec` or `step`. -/

namespace Sys2Proof.Laws

open Sys2Proof Sys2Proof.Machine

theorem atStart_next {s t : State} {f : State → State} (h : s.atStart f = .next t) : s.phase = .start ∧ t = f s := by
  unfold State.atStart at h
  split at h <;> first | (cases h; exact ⟨by assumption, rfl⟩) | cases h

theorem atHeader_next {s t : State} {f : State → State} (h : s.atHeader f = .next t) : s.phase = .header ∧ t = f s := by
  unfold State.atHeader at h
  split at h <;> first | (cases h; exact ⟨by assumption, rfl⟩) | cases h

theorem atBlock_next {s t : State} {o : Out} (h : s.atBlock o = .next t) : s.phase = .block ∧ o = .next t := by
  unfold State.atBlock at h
  split at h <;> first | exact ⟨by assumption, h⟩ | cases h

theorem atSymbol_next {s t : State} {f : State → State} (h : s.atSymbol f = .next t) :
    s.phase = .symbol ∧ t = f { s with dec := { s.dec with bsym := s.dec.bsym + 1 } } := by
  unfold State.atSymbol at h
  split at h <;> first | (cases h; exact ⟨by assumption, rfl⟩) | cases h

/-- What a command's work can be, from the state that the command start leaves. -/
def CommandWork (i : Instr) (s t : State) : Prop :=
  (i = .nop ∧ t = s.complete 0 false false) ∨ (∃ l, i = .compress l ∧ t = s.compressWork l) ∨
    (i = .decompress ∧ t = s.decompressWork) ∨ (i = .getLength ∧ t = s.getLengthWork) ∨
    (∃ l, i = .measure l ∧ t = s.measureWork l) ∨
    (i ∈ [Instr.reservedOp5, Instr.reservedOp6, Instr.reservedOp7] ∧ t = s.raiseError .illegalCommand 0)

/-- The cases of an instruction that answers. -/
theorem exec_next_cases {i : Instr} {s t : State} (h : exec i s = .next t) :
    (s.phase = .start ∧ CommandWork i s t) ∨
    (s.phase = .header ∧ ((∃ w, t = s.storedHeader w) ∨ ∃ w, t = s.huffmanHeader w)) ∨
    (s.phase = .block ∧ (s.storedBlockWork = .next t ∨ s.compressedBlockWork = .next t)) ∨
    ((∃ q c j, s.phase = .rle q c j) ∧ ∃ sym x, s.codeLength sym x = .next t) ∨
    (s.phase = .symbol ∧
      ((∃ b, t = { s with dec := { s.dec with bsym := s.dec.bsym + 1 } }.literal b) ∨
        ∃ n, t = { s with dec := { s.dec with bsym := s.dec.bsym + 1 }, phase := .dist n })) ∨
    (∃ len, s.phase = .dist len ∧ ∃ c x, t = s.distanceWork len c x) := by
  cases hf : (encode i).fmt with
  | cmdw =>
    refine .inl ?_
    cases i <;> first
      | (cases hf; done)
      | (simp only [exec, execNop, execCompress, execDecompress, execGetLength, execMeasure, execReservedOp5,
           execReservedOp6, execReservedOp7] at h
         obtain ⟨h1, h2⟩ := atStart_next h
         refine ⟨h1, ?_⟩
         unfold CommandWork
         first
           | exact .inl ⟨rfl, h2⟩
           | exact .inr (.inl ⟨_, rfl, h2⟩)
           | exact .inr (.inr (.inl ⟨rfl, h2⟩))
           | exact .inr (.inr (.inr (.inl ⟨rfl, h2⟩)))
           | exact .inr (.inr (.inr (.inr (.inl ⟨_, rfl, h2⟩))))
           | exact .inr (.inr (.inr (.inr (.inr ⟨by simp, h2⟩)))))
  | hdr =>
    refine .inr (.inl ?_)
    cases i <;> first
      | (cases hf; done)
      | (simp only [exec, execHdrStoredEmpty, execHdrStored, execHdrHuffman] at h
         obtain ⟨h1, h2⟩ := atHeader_next h
         first
           | exact ⟨h1, .inl ⟨_, h2⟩⟩
           | exact ⟨h1, .inr ⟨_, h2⟩⟩)
  | btype =>
    refine .inr (.inr (.inl ?_))
    cases i <;> first
      | (cases hf; done)
      | (obtain ⟨h1, h2⟩ := atBlock_next h
         exact ⟨h1, .inl h2⟩)
      | (obtain ⟨h1, h2⟩ := atBlock_next h
         exact ⟨h1, .inr h2⟩)
  | clsym =>
    rw [exec_of_clsym hf] at h
    refine .inr (.inr (.inr (.inl ⟨?_, _, _, h⟩)))
    unfold State.codeLength at h
    split at h <;> first | cases h | exact ⟨_, _, _, by assumption⟩
  | llsym =>
    refine .inr (.inr (.inr (.inr (.inl ?_))))
    rcases exec_of_llsym hf s with ⟨b, rfl⟩ | ⟨_, he⟩
    · simp only [exec, execLit] at h
      obtain ⟨h1, h2⟩ := atSymbol_next h
      exact ⟨h1, .inl ⟨b, h2⟩⟩
    · rw [he] at h
      obtain ⟨h1, h2⟩ := atSymbol_next h
      exact ⟨h1, .inr ⟨_, h2⟩⟩
  | dsym =>
    rw [exec_of_dsym hf] at h
    refine .inr (.inr (.inr (.inr (.inr ?_))))
    unfold State.distanceToken at h
    split at h <;> first | (cases h; done) | exact ⟨_, by assumption, _, _, (by cases h; rfl)⟩

/-- What a stop met while decoding answers. -/
theorem stopWith_next {s t : State} {e : Stop} (h : s.stopWith e = .next t) : ∃ c info, t = s.raiseError c info := by
  cases e with
  | error c info => cases h; exact ⟨c, info, rfl⟩
  | fault f => cases h
  | refusal r => cases h

/-- A stored block answers a decoding error, or the block loop after its bytes. -/
theorem storedBlockWork_next {s t : State} (h : s.storedBlockWork = .next t) :
    (∃ c info, t = s.raiseError c info) ∨
    ∃ e r1 r2 mem r3, getBits s.mem 8 s.rd = .ok (e, r1) ∧ alignReader s.mem r1 = .ok r2 ∧
      storedBytes (s.lat.dst + s.dec.out) (storedCount e s.dec.m.toNat s.dec.out.toNat) 0 s.mem r2 = .ok (mem, r3) ∧
      t = State.blockLoop { s with
        mem := mem, rd := r3
        dec := { s.dec with out := s.dec.out + BitVec.ofNat 32 (storedCount e s.dec.m.toNat s.dec.out.toNat) } } := by
  unfold State.storedBlockWork at h
  split at h
  · exact .inl (stopWith_next h)
  · split at h
    · exact .inl (stopWith_next h)
    · simp only at h
      split at h
      · exact .inl (stopWith_next h)
      · rename_i e r1 h1 _ r2 h2 _ mem r3 h3
        cases h
        exact .inr ⟨e, r1, r2, mem, r3, h1, h2, h3, rfl⟩

/-- A compressed block answers a decoding error, or the start of its literal sequence. -/
theorem compressedBlockWork_next {s t : State} (h : s.compressedBlockWork = .next t) :
    (∃ c info, t = s.raiseError c info) ∨
    ∃ lens r1 tree f r2, readLengths3 s.mem 20 s.rd = .ok (lens, r1) ∧ buildTree lens 20 7 = some tree ∧
      getBits s.mem 6 r1 = .ok (f, r2) ∧
      t = { s with
        dec := { s.dec with lensCl := lens.map (BitVec.ofNat 4), clTree := tree }
        rd := r2
        phase := .rle .literal (f + 257) 0 } := by
  unfold State.compressedBlockWork at h
  split at h
  · exact .inl (stopWith_next h)
  · split at h
    · cases h; exact .inl ⟨_, _, rfl⟩
    · split at h
      · exact .inl (stopWith_next h)
      · rename_i lens r1 h1 _ tree h2 _ f r2 h3
        cases h
        exact .inr ⟨lens, r1, tree, f, r2, h1, h2, h3, rfl⟩

/-- A code-length token answers a decoding error, or one of: the next token of its sequence, the start of the distance
sequence, the symbol loop. -/
theorem codeLength_next {s t : State} {sym x : Nat} {q : RleSeq} {count j : Nat} (hp : s.phase = .rle q count j)
    (h : s.codeLength sym x = .next t) :
    (∃ u c info, t = State.raiseError u c info ∧ u = { s with dec := u.dec }) ∨
    ∃ lens k, applyCodeLength sym x count j (s.dec.lensFor q) = some (lens, k) ∧
      ((k < count ∧ t = { s with dec := s.dec.setLens q lens, phase := .rle q count k }) ∨
        (¬k < count ∧ q = .literal ∧ ∃ tree f r,
          buildTree (lensOf (clearFrom count 320 lens)) 320 14 = some tree ∧ getBits s.mem 6 s.rd = .ok (f, r) ∧
          t = { s with
            dec := { s.dec with lensLit := clearFrom count 320 lens, litTree := tree }
            rd := r
            phase := .rle .distance (f + 1) 0 }) ∨
        (¬k < count ∧ q = .distance ∧ ∃ tree,
          buildTree (lensOf (clearFrom count 64 lens)) 64 14 = some tree ∧
          t = State.symbolLoop { s with
            dec := { s.dec with lensDist := clearFrom count 64 lens, distTree := tree, bsym := 0 } })) := by
  have h' : (match applyCodeLength sym x count j (s.dec.lensFor q) with
      | none => Host.Outcome.next (s.raiseError .corruptInput s.rd.offset)
      | some (lens, j) => State.nextCodeLength { s with dec := s.dec.setLens q lens } q count j) = .next t := by
    unfold State.codeLength at h
    split at h <;> rename_i h1 <;> cases hp.symm.trans h1
    exact h
  clear h
  rename _ => h
  split at h
  · cases h; exact .inl ⟨s, _, _, rfl, rfl⟩
  · rename_i lens k ha
    unfold State.nextCodeLength at h
    by_cases hk : k < count
    · rw [if_pos hk] at h; cases h
      exact .inr ⟨lens, k, ha, .inl ⟨hk, rfl⟩⟩
    · rw [if_neg hk] at h
      cases q with
      | literal =>
        simp only [State.endLiteralLens] at h
        split at h
        · cases h; exact .inl ⟨_, _, _, rfl, rfl⟩
        · split at h
          · obtain ⟨c, info, rfl⟩ := stopWith_next h
            exact .inl ⟨_, c, info, rfl, rfl⟩
          · rename_i _ tree h1 _ f r h2
            cases h
            exact .inr ⟨lens, k, ha, .inr (.inl ⟨hk, rfl, tree, f, r, h1, h2, rfl⟩)⟩
      | distance =>
        simp only [State.endDistanceLens] at h
        split at h
        · cases h; exact .inl ⟨_, _, _, rfl, rfl⟩
        · rename_i _ tree h1
          cases h
          exact .inr ⟨lens, k, ha, .inr (.inr ⟨hk, rfl, tree, h1, rfl⟩)⟩

/-- `COMPRESS` (49_host_commands.md R801, R802): an error of its start checks, the stored form, the Huffman form, or the
fallback. -/
theorem compressWork_cases (s : State) (l : Level) :
    (∃ e, s.lat.checkCompress = some e ∧ s.compressWork l = s.raiseError e 0) ∨
    (s.lat.checkCompress = none ∧ s.lat.n.toNat < 4 ∧
      s.compressWork l = s.storedForm.complete (s.lat.n + 4) false false) ∨
    (∃ w, s.lat.checkCompress = none ∧ 4 ≤ s.lat.n.toNat ∧ s.attempt l .write = .ok w ∧
      s.compressWork l = State.complete { s.withWork w with mem := w.mem.writeWord s.lat.dst s.lat.n }
        (huffmanLength w.wr) true false) ∨
    (∃ w, s.lat.checkCompress = none ∧ 4 ≤ s.lat.n.toNat ∧ s.attempt l .write = .noSpace w ∧
      s.compressWork l = (s.withWork w).storedForm.complete (s.lat.n + 4) false true) := by
  unfold State.compressWork
  split
  · rename_i e he; exact .inl ⟨e, he, rfl⟩
  · rename_i hn
    split
    · rename_i h4; exact .inr (.inl ⟨hn, h4, rfl⟩)
    · rename_i h4
      split
      · rename_i w hw; exact .inr (.inr (.inl ⟨w, hn, by omega, hw, rfl⟩))
      · rename_i w hw; exact .inr (.inr (.inr ⟨w, hn, by omega, hw, rfl⟩))

/-- `MEASURE` (R801, R808). -/
theorem measureWork_cases (s : State) (l : Level) :
    (∃ e, s.lat.checkMeasure = some e ∧ s.measureWork l = s.raiseError e 0) ∨
    (s.lat.checkMeasure = none ∧ s.lat.n.toNat < 4 ∧ s.measureWork l = s.complete (s.lat.n + 4) false false) ∨
    (∃ w, s.lat.checkMeasure = none ∧ 4 ≤ s.lat.n.toNat ∧ s.attempt l .measure = .ok w ∧
      s.measureWork l = (s.withWork w).complete (huffmanLength w.wr) true false) ∨
    (∃ w, s.lat.checkMeasure = none ∧ 4 ≤ s.lat.n.toNat ∧ s.attempt l .measure = .noSpace w ∧
      s.measureWork l = (s.withWork w).complete (s.lat.n + 4) false true) := by
  unfold State.measureWork
  split
  · rename_i e he; exact .inl ⟨e, he, rfl⟩
  · rename_i hn
    split
    · rename_i h4; exact .inr (.inl ⟨hn, h4, rfl⟩)
    · rename_i h4
      split
      · rename_i w hw; exact .inr (.inr (.inl ⟨w, hn, by omega, hw, rfl⟩))
      · rename_i w hw; exact .inr (.inr (.inr ⟨w, hn, by omega, hw, rfl⟩))

/-- `GET_LENGTH` (R801, R806). -/
theorem getLengthWork_cases (s : State) :
    (∃ e, s.lat.checkGetLength = some e ∧ s.getLengthWork = s.raiseError e 0) ∨
    (s.lat.checkGetLength = none ∧
      s.getLengthWork = s.complete (headerMagnitude (s.mem.readWord s.lat.src))
        (headerIsHuffman (s.mem.readWord s.lat.src)) false) := by
  unfold State.getLengthWork
  split
  · rename_i e he; exact .inl ⟨e, he, rfl⟩
  · rename_i hn; exact .inr ⟨hn, rfl⟩

/-- `DECOMPRESS` up to its header (R801, R804). -/
theorem decompressWork_cases (s : State) :
    (∃ e, s.lat.checkDecompress = some e ∧ s.decompressWork = s.raiseError e 0) ∨
    (s.lat.checkDecompress = none ∧
      s.decompressWork = { s with dec := { s.dec with out := 0 }, cache := Cache.empty, phase := .header }) := by
  unfold State.decompressWork
  split
  · rename_i e he; exact .inl ⟨e, he, rfl⟩
  · rename_i hn; exact .inr ⟨hn, rfl⟩

/-- A stored form (47_block_decoder.md R701). -/
theorem storedHeader_cases (s : State) (h : Word) :
    (s.lat.cap.toNat < (headerMagnitude h).toNat ∧ s.storedHeader h = s.raiseError .insufficientDestination 0) ∨
    ((headerMagnitude h).toNat ≤ s.lat.cap.toNat ∧ s.lat.n.toNat - 4 < (headerMagnitude h).toNat ∧
      s.storedHeader h = State.raiseError { s with dec := { s.dec with m := headerMagnitude h } } .truncatedInput 4) ∨
    ((headerMagnitude h).toNat ≤ s.lat.cap.toNat ∧ (headerMagnitude h).toNat ≤ s.lat.n.toNat - 4 ∧
      s.storedHeader h = State.complete { s with
        mem := Memory.copyForward s.lat.dst (s.lat.src + 4) (headerMagnitude h).toNat 0 s.mem
        dec := { s.dec with m := headerMagnitude h, out := headerMagnitude h } } (headerMagnitude h) false false) := by
  rcases withHeader_cases s h (fun t =>
    if t.lat.n.toNat - 4 < t.dec.m.toNat then t.raiseError .truncatedInput 4
    else
      State.complete
        { t with mem := Memory.copyForward t.lat.dst (t.lat.src + 4) t.dec.m.toNat 0 t.mem
                 dec := { t.dec with out := t.dec.m } }
        t.dec.m false false) with ⟨h1, h2⟩ | ⟨h1, h2⟩
  · exact .inl ⟨h1, h2⟩
  · unfold State.storedHeader
    rw [h2]
    by_cases h3 : s.lat.n.toNat - 4 < (headerMagnitude h).toNat
    · exact .inr (.inl ⟨h1, h3, if_pos h3⟩)
    · exact .inr (.inr ⟨h1, by omega, if_neg h3⟩)

/-- A Huffman form (R701). -/
theorem huffmanHeader_cases (s : State) (h : Word) :
    (s.lat.cap.toNat < (headerMagnitude h).toNat ∧ s.huffmanHeader h = s.raiseError .insufficientDestination 0) ∨
    ((headerMagnitude h).toNat ≤ s.lat.cap.toNat ∧
      s.huffmanHeader h = State.blockLoop { s with dec := { s.dec with m := headerMagnitude h }, rd := s.lat.reader }) :=
  withHeader_cases s h _

end Sys2Proof.Laws
end

