-- ==== Sys2Proof/Laws/Accesses.lean ====
section
/-! SUPPORT. What the accesses of an instruction are (70_reset_and_hazards.md R958): which of them write, and where; and the
turns and ticks of the engine one by one. -/

namespace Sys2Proof.Laws

open Sys2Proof Sys2Proof.Machine

@[simp] theorem onMemory_read (m : Memory) (a : Word) : (Access.read a).onMemory m = m := rfl
@[simp] theorem onMemory_write (m : Memory) (a : Word) (v : Byte) : (Access.write a v).onMemory m = m.write a v := rfl

theorem wf_onMemory {m : Memory} (h : m.wf = true) (a : Access) : (a.onMemory m).wf = true := by
  cases a with
  | read _ => exact h
  | write _ _ => exact wf_write _ _ h

/-- One access changes one byte at most. -/
theorem onMemory_other (m : Memory) (a : Access) : ∃ x : Word, ∀ y, y ≠ x → (a.onMemory m).read y = m.read y := by
  cases a with
  | read x => exact ⟨x, fun _ _ => rfl⟩
  | write x v => exact ⟨x, fun y hy => read_write_other m v hy⟩

/-! Which accesses write. -/

theorem write_not_mem_readsAt (a b : Word) (v : Byte) (k : Nat) : Access.write a v ∉ readsAt b k := by
  simp [readsAt]

theorem write_not_mem_loadsTo (a : Word) (v : Byte) (r : Reader) (stop : Word) : Access.write a v ∉ r.loadsTo stop :=
  write_not_mem_readsAt _ _ _ _

theorem write_mem_writesAt {m : Memory} {a b : Word} {v : Byte} {k : Nat} (h : Access.write a v ∈ writesAt m b k) :
    ∃ i, i < k ∧ a = b + BitVec.ofNat 32 i ∧ v = m.read a := by
  simp only [writesAt, List.mem_map, List.mem_range, Access.write.injEq] at h
  obtain ⟨i, hi, rfl, rfl⟩ := h
  exact ⟨i, hi, rfl, rfl⟩

theorem write_mem_copiesAt {m : Memory} {a b c : Word} {v : Byte} {k : Nat} (h : Access.write a v ∈ copiesAt m b c k) :
    ∃ i, i < k ∧ a = b + BitVec.ofNat 32 i ∧ v = m.read a := by
  simp only [copiesAt, List.mem_flatMap, List.mem_range, List.mem_cons, reduceCtorEq, Access.write.injEq,
    List.not_mem_nil, or_false, false_or] at h
  obtain ⟨i, hi, rfl, rfl⟩ := h
  exact ⟨i, hi, rfl, rfl⟩

theorem write_mem_storedByteAccesses {mem : Memory} {dst a : Word} {v : Byte} (k i : Nat) {r : Reader}
    (h : Access.write a v ∈ storedByteAccesses mem dst k i r) :
    ∃ j, i ≤ j ∧ j < i + k ∧ a = dst + BitVec.ofNat 32 j := by
  induction k generalizing i r with
  | zero => simp [storedByteAccesses] at h
  | succ k ih =>
    rw [storedByteAccesses] at h
    split at h
    · simp at h
    · rcases List.mem_append.mp h with h | h
      · exact absurd h (write_not_mem_loadsTo _ _ _ _)
      · rcases List.mem_cons.mp h with h | h
        · cases h; exact ⟨i, by omega, by omega, rfl⟩
        · obtain ⟨j, h1, h2, h3⟩ := ih (i + 1) h
          exact ⟨j, by omega, by omega, h3⟩

/-- The writes of a stored form: its header, then its bytes (49_host_commands.md R802). -/
theorem write_mem_storedFormAccesses {s t : State} {a : Word} {v : Byte}
    (h : Access.write a v ∈ storedFormAccesses s t) :
    ∃ i, i < s.lat.n.toNat + 4 ∧ a = s.lat.dst + BitVec.ofNat 32 i ∧ v = t.mem.read a := by
  rcases List.mem_append.mp h with h | h
  · obtain ⟨i, hi, ha, hv⟩ := write_mem_writesAt h
    exact ⟨i, by omega, ha, hv⟩
  · obtain ⟨i, hi, ha, hv⟩ := write_mem_copiesAt h
    refine ⟨4 + i, by omega, ?_, hv⟩
    rw [ha, BitVec.ofNat_add, ← BitVec.add_assoc]; rfl

/-! Turns and ticks of the engine. -/

@[simp] theorem engineTurns_zero (s : State) : engineTurns 0 s = .next s := rfl
@[simp] theorem engineTicks_zero (s : State) : engineTicks 0 s = .next s := rfl

theorem engineTurns_succ {s t : State} (h : step { s with inputs := .engine :: s.inputs } = .next t) (k : Nat) :
    engineTurns (k + 1) s = engineTurns k t := by rw [engineTurns, h]

theorem engineTicks_succ {s t : State} (h : step { s with inputs := .tick :: s.inputs } = .next t) (k : Nat) :
    engineTicks (k + 1) s = engineTicks k t := by rw [engineTicks, h]

/-- A tick that makes an access. -/
theorem tick_access {s : State} {a : Access} (h : (accesses s)[s.made]? = some a) :
    step { s with inputs := .tick :: s.inputs } = .next { s with mem := a.onMemory s.mem, made := s.made + 1 } := by
  change engineTick s = _
  unfold engineTick; rw [h]

/-- The tick that ends the instruction. -/
theorem tick_last {s : State} (h : (accesses s).length ≤ s.made) :
    step { s with inputs := .tick :: s.inputs } = engineRest s := by
  change engineTick s = _
  unfold engineTick; rw [List.getElem?_eq_none_iff.mpr h]

end Sys2Proof.Laws
end

