-- ==== Sys2Proof/Laws/PerInstr.lean ====
section
/-! SUPPORT. One lemma per instruction: its encoding's symbol and extra value fit the fields that 30_encoding.md R301 to
R312 give them. -/

/-- The symbol value and the extra value of an instruction's encoding are within their fields. -/
def Sys2Proof.Laws.EncodedInRange.Statement (i : Sys2Proof.Instr) : Prop :=
  (Sys2Proof.encode i).sym < 2 ^ (Sys2Proof.encode i).fmt.symBits ∧
  (Sys2Proof.encode i).x < 2 ^ Sys2Proof.extraBits (Sys2Proof.encode i).fmt (Sys2Proof.encode i).sym

namespace Sys2Proof.Laws.EncodedInRange

open Sys2Proof

/-- An extra value of the width its symbol has is in range. -/
theorem of_width {i : Instr} {f : Format} {sym e : Nat} {x : BitVec e} (h : encode i = Token.mk f sym x.toNat)
    (hs : sym < 2 ^ f.symBits) (he : extraBits f sym = e) : Statement i := by
  unfold Statement; rw [h]; exact ⟨hs, by rw [he]; exact x.isLt⟩

theorem nop : Statement .nop := by unfold Statement; decide
theorem compress (level : Level) : Statement (.compress level) := by cases level <;> (unfold Statement; decide)
theorem decompress : Statement .decompress := by unfold Statement; decide
theorem getLength : Statement .getLength := by unfold Statement; decide
theorem measure (level : Level) : Statement (.measure level) := by cases level <;> (unfold Statement; decide)
theorem reservedOp5 : Statement .reservedOp5 := by unfold Statement; decide
theorem reservedOp6 : Statement .reservedOp6 := by unfold Statement; decide
theorem reservedOp7 : Statement .reservedOp7 := by unfold Statement; decide
theorem hdrStoredEmpty : Statement .hdrStoredEmpty := by unfold Statement; decide
theorem hdrStored (h : Word) : Statement (.hdrStored h) :=
  ⟨h.isLt, Nat.one_pos⟩
theorem hdrHuffman (h : Word) : Statement (.hdrHuffman h) :=
  ⟨h.isLt, Nat.one_pos⟩
theorem storedBlock : Statement .storedBlock := by unfold Statement; decide
theorem compressedBlock : Statement .compressedBlock := by unfold Statement; decide
theorem clLen0 : Statement .clLen0 := by unfold Statement; decide
theorem clLen1 : Statement .clLen1 := by unfold Statement; decide
theorem clLen2 : Statement .clLen2 := by unfold Statement; decide
theorem clLen3 : Statement .clLen3 := by unfold Statement; decide
theorem clLen4 : Statement .clLen4 := by unfold Statement; decide
theorem clLen5 : Statement .clLen5 := by unfold Statement; decide
theorem clLen6 : Statement .clLen6 := by unfold Statement; decide
theorem clLen7 : Statement .clLen7 := by unfold Statement; decide
theorem clLen8 : Statement .clLen8 := by unfold Statement; decide
theorem clLen9 : Statement .clLen9 := by unfold Statement; decide
theorem clLen10 : Statement .clLen10 := by unfold Statement; decide
theorem clLen11 : Statement .clLen11 := by unfold Statement; decide
theorem clLen12 : Statement .clLen12 := by unfold Statement; decide
theorem clLen13 : Statement .clLen13 := by unfold Statement; decide
theorem clLen14 : Statement .clLen14 := by unfold Statement; decide
theorem clRep2 : Statement .clRep2 := by unfold Statement; decide
theorem clRep3_4 (x : BitVec 1) : Statement (.clRep3_4 x) :=
  of_width rfl (by decide) (by decide)
theorem clRep5_8 (x : BitVec 2) : Statement (.clRep5_8 x) :=
  of_width rfl (by decide) (by decide)
theorem clRep9_16 (x : BitVec 3) : Statement (.clRep9_16 x) :=
  of_width rfl (by decide) (by decide)
theorem clRep17_144 (x : BitVec 7) : Statement (.clRep17_144 x) :=
  of_width rfl (by decide) (by decide)
theorem lit (b : Byte) : Statement (.lit b) := by
  have h := b.isLt
  have e : extraBits .llsym b.toNat = 0 := if_pos h
  exact ⟨by simp only [encode, Format.symBits]; omega, by simp [encode, e]⟩
theorem len0 : Statement .len0 := by unfold Statement; decide
theorem len1 : Statement .len1 := by unfold Statement; decide
theorem len2 : Statement .len2 := by unfold Statement; decide
theorem len3 : Statement .len3 := by unfold Statement; decide
theorem len4 : Statement .len4 := by unfold Statement; decide
theorem len5 : Statement .len5 := by unfold Statement; decide
theorem len6 : Statement .len6 := by unfold Statement; decide
theorem len7 : Statement .len7 := by unfold Statement; decide
theorem len8 : Statement .len8 := by unfold Statement; decide
theorem len9 : Statement .len9 := by unfold Statement; decide
theorem len10 : Statement .len10 := by unfold Statement; decide
theorem len11 : Statement .len11 := by unfold Statement; decide
theorem len12 : Statement .len12 := by unfold Statement; decide
theorem len13 : Statement .len13 := by unfold Statement; decide
theorem len14 : Statement .len14 := by unfold Statement; decide
theorem len15 : Statement .len15 := by unfold Statement; decide
theorem len16 (x : BitVec 1) : Statement (.len16 x) :=
  of_width rfl (by decide) (by decide)
theorem len17 (x : BitVec 1) : Statement (.len17 x) :=
  of_width rfl (by decide) (by decide)
theorem len18 (x : BitVec 1) : Statement (.len18 x) :=
  of_width rfl (by decide) (by decide)
theorem len19 (x : BitVec 1) : Statement (.len19 x) :=
  of_width rfl (by decide) (by decide)
theorem len20 (x : BitVec 1) : Statement (.len20 x) :=
  of_width rfl (by decide) (by decide)
theorem len21 (x : BitVec 1) : Statement (.len21 x) :=
  of_width rfl (by decide) (by decide)
theorem len22 (x : BitVec 1) : Statement (.len22 x) :=
  of_width rfl (by decide) (by decide)
theorem len23 (x : BitVec 1) : Statement (.len23 x) :=
  of_width rfl (by decide) (by decide)
theorem len24 (x : BitVec 1) : Statement (.len24 x) :=
  of_width rfl (by decide) (by decide)
theorem len25 (x : BitVec 1) : Statement (.len25 x) :=
  of_width rfl (by decide) (by decide)
theorem len26 (x : BitVec 1) : Statement (.len26 x) :=
  of_width rfl (by decide) (by decide)
theorem len27 (x : BitVec 1) : Statement (.len27 x) :=
  of_width rfl (by decide) (by decide)
theorem len28 (x : BitVec 1) : Statement (.len28 x) :=
  of_width rfl (by decide) (by decide)
theorem len29 (x : BitVec 1) : Statement (.len29 x) :=
  of_width rfl (by decide) (by decide)
theorem len30 (x : BitVec 1) : Statement (.len30 x) :=
  of_width rfl (by decide) (by decide)
theorem len31 (x : BitVec 1) : Statement (.len31 x) :=
  of_width rfl (by decide) (by decide)
theorem len32 (x : BitVec 2) : Statement (.len32 x) :=
  of_width rfl (by decide) (by decide)
theorem len33 (x : BitVec 2) : Statement (.len33 x) :=
  of_width rfl (by decide) (by decide)
theorem len34 (x : BitVec 2) : Statement (.len34 x) :=
  of_width rfl (by decide) (by decide)
theorem len35 (x : BitVec 2) : Statement (.len35 x) :=
  of_width rfl (by decide) (by decide)
theorem len36 (x : BitVec 2) : Statement (.len36 x) :=
  of_width rfl (by decide) (by decide)
theorem len37 (x : BitVec 2) : Statement (.len37 x) :=
  of_width rfl (by decide) (by decide)
theorem len38 (x : BitVec 2) : Statement (.len38 x) :=
  of_width rfl (by decide) (by decide)
theorem len39 (x : BitVec 2) : Statement (.len39 x) :=
  of_width rfl (by decide) (by decide)
theorem len40 (x : BitVec 2) : Statement (.len40 x) :=
  of_width rfl (by decide) (by decide)
theorem len41 (x : BitVec 2) : Statement (.len41 x) :=
  of_width rfl (by decide) (by decide)
theorem len42 (x : BitVec 2) : Statement (.len42 x) :=
  of_width rfl (by decide) (by decide)
theorem len43 (x : BitVec 2) : Statement (.len43 x) :=
  of_width rfl (by decide) (by decide)
theorem len44 (x : BitVec 2) : Statement (.len44 x) :=
  of_width rfl (by decide) (by decide)
theorem len45 (x : BitVec 2) : Statement (.len45 x) :=
  of_width rfl (by decide) (by decide)
theorem len46 (x : BitVec 2) : Statement (.len46 x) :=
  of_width rfl (by decide) (by decide)
theorem len47 (x : BitVec 2) : Statement (.len47 x) :=
  of_width rfl (by decide) (by decide)
theorem len48 (x : BitVec 3) : Statement (.len48 x) :=
  of_width rfl (by decide) (by decide)
theorem len49 (x : BitVec 3) : Statement (.len49 x) :=
  of_width rfl (by decide) (by decide)
theorem len50 (x : BitVec 3) : Statement (.len50 x) :=
  of_width rfl (by decide) (by decide)
theorem len51 (x : BitVec 3) : Statement (.len51 x) :=
  of_width rfl (by decide) (by decide)
theorem len52 (x : BitVec 3) : Statement (.len52 x) :=
  of_width rfl (by decide) (by decide)
theorem len53 (x : BitVec 3) : Statement (.len53 x) :=
  of_width rfl (by decide) (by decide)
theorem len54 (x : BitVec 3) : Statement (.len54 x) :=
  of_width rfl (by decide) (by decide)
theorem len55 (x : BitVec 3) : Statement (.len55 x) :=
  of_width rfl (by decide) (by decide)
theorem len56 (x : BitVec 4) : Statement (.len56 x) :=
  of_width rfl (by decide) (by decide)
theorem len57 (x : BitVec 4) : Statement (.len57 x) :=
  of_width rfl (by decide) (by decide)
theorem len58 (x : BitVec 4) : Statement (.len58 x) :=
  of_width rfl (by decide) (by decide)
theorem len59 (x : BitVec 4) : Statement (.len59 x) :=
  of_width rfl (by decide) (by decide)
theorem len60 (x : BitVec 6) : Statement (.len60 x) :=
  of_width rfl (by decide) (by decide)
theorem len61 (x : BitVec 6) : Statement (.len61 x) :=
  of_width rfl (by decide) (by decide)
theorem len62 (x : BitVec 8) : Statement (.len62 x) :=
  of_width rfl (by decide) (by decide)
theorem len63 (x : BitVec 14) : Statement (.len63 x) :=
  of_width rfl (by decide) (by decide)
theorem rep0 : Statement .rep0 := by unfold Statement; decide
theorem rep1 : Statement .rep1 := by unfold Statement; decide
theorem rep2 : Statement .rep2 := by unfold Statement; decide
theorem dist3 : Statement .dist3 := by unfold Statement; decide
theorem dist4 : Statement .dist4 := by unfold Statement; decide
theorem dist5 : Statement .dist5 := by unfold Statement; decide
theorem dist6 : Statement .dist6 := by unfold Statement; decide
theorem dist7 : Statement .dist7 := by unfold Statement; decide
theorem dist8 : Statement .dist8 := by unfold Statement; decide
theorem dist9 (x : BitVec 1) : Statement (.dist9 x) :=
  of_width rfl (by decide) (by decide)
theorem dist10 (x : BitVec 1) : Statement (.dist10 x) :=
  of_width rfl (by decide) (by decide)
theorem dist11 (x : BitVec 1) : Statement (.dist11 x) :=
  of_width rfl (by decide) (by decide)
theorem dist12 (x : BitVec 1) : Statement (.dist12 x) :=
  of_width rfl (by decide) (by decide)
theorem dist13 (x : BitVec 2) : Statement (.dist13 x) :=
  of_width rfl (by decide) (by decide)
theorem dist14 (x : BitVec 2) : Statement (.dist14 x) :=
  of_width rfl (by decide) (by decide)
theorem dist15 (x : BitVec 2) : Statement (.dist15 x) :=
  of_width rfl (by decide) (by decide)
theorem dist16 (x : BitVec 2) : Statement (.dist16 x) :=
  of_width rfl (by decide) (by decide)
theorem dist17 (x : BitVec 3) : Statement (.dist17 x) :=
  of_width rfl (by decide) (by decide)
theorem dist18 (x : BitVec 3) : Statement (.dist18 x) :=
  of_width rfl (by decide) (by decide)
theorem dist19 (x : BitVec 3) : Statement (.dist19 x) :=
  of_width rfl (by decide) (by decide)
theorem dist20 (x : BitVec 3) : Statement (.dist20 x) :=
  of_width rfl (by decide) (by decide)
theorem dist21 (x : BitVec 4) : Statement (.dist21 x) :=
  of_width rfl (by decide) (by decide)
theorem dist22 (x : BitVec 4) : Statement (.dist22 x) :=
  of_width rfl (by decide) (by decide)
theorem dist23 (x : BitVec 4) : Statement (.dist23 x) :=
  of_width rfl (by decide) (by decide)
theorem dist24 (x : BitVec 4) : Statement (.dist24 x) :=
  of_width rfl (by decide) (by decide)
theorem dist25 (x : BitVec 5) : Statement (.dist25 x) :=
  of_width rfl (by decide) (by decide)
theorem dist26 (x : BitVec 5) : Statement (.dist26 x) :=
  of_width rfl (by decide) (by decide)
theorem dist27 (x : BitVec 5) : Statement (.dist27 x) :=
  of_width rfl (by decide) (by decide)
theorem dist28 (x : BitVec 5) : Statement (.dist28 x) :=
  of_width rfl (by decide) (by decide)
theorem dist29 (x : BitVec 6) : Statement (.dist29 x) :=
  of_width rfl (by decide) (by decide)
theorem dist30 (x : BitVec 6) : Statement (.dist30 x) :=
  of_width rfl (by decide) (by decide)
theorem dist31 (x : BitVec 6) : Statement (.dist31 x) :=
  of_width rfl (by decide) (by decide)
theorem dist32 (x : BitVec 6) : Statement (.dist32 x) :=
  of_width rfl (by decide) (by decide)
theorem dist33 (x : BitVec 7) : Statement (.dist33 x) :=
  of_width rfl (by decide) (by decide)
theorem dist34 (x : BitVec 7) : Statement (.dist34 x) :=
  of_width rfl (by decide) (by decide)
theorem dist35 (x : BitVec 7) : Statement (.dist35 x) :=
  of_width rfl (by decide) (by decide)
theorem dist36 (x : BitVec 7) : Statement (.dist36 x) :=
  of_width rfl (by decide) (by decide)
theorem dist37 (x : BitVec 8) : Statement (.dist37 x) :=
  of_width rfl (by decide) (by decide)
theorem dist38 (x : BitVec 8) : Statement (.dist38 x) :=
  of_width rfl (by decide) (by decide)
theorem dist39 (x : BitVec 8) : Statement (.dist39 x) :=
  of_width rfl (by decide) (by decide)
theorem dist40 (x : BitVec 8) : Statement (.dist40 x) :=
  of_width rfl (by decide) (by decide)
theorem dist41 (x : BitVec 9) : Statement (.dist41 x) :=
  of_width rfl (by decide) (by decide)
theorem dist42 (x : BitVec 9) : Statement (.dist42 x) :=
  of_width rfl (by decide) (by decide)
theorem dist43 (x : BitVec 9) : Statement (.dist43 x) :=
  of_width rfl (by decide) (by decide)
theorem dist44 (x : BitVec 9) : Statement (.dist44 x) :=
  of_width rfl (by decide) (by decide)
theorem dist45 (x : BitVec 10) : Statement (.dist45 x) :=
  of_width rfl (by decide) (by decide)
theorem dist46 (x : BitVec 10) : Statement (.dist46 x) :=
  of_width rfl (by decide) (by decide)
theorem dist47 (x : BitVec 10) : Statement (.dist47 x) :=
  of_width rfl (by decide) (by decide)
theorem dist48 (x : BitVec 10) : Statement (.dist48 x) :=
  of_width rfl (by decide) (by decide)
theorem dist49 (x : BitVec 11) : Statement (.dist49 x) :=
  of_width rfl (by decide) (by decide)
theorem dist50 (x : BitVec 11) : Statement (.dist50 x) :=
  of_width rfl (by decide) (by decide)
theorem dist51 (x : BitVec 11) : Statement (.dist51 x) :=
  of_width rfl (by decide) (by decide)
theorem dist52 (x : BitVec 11) : Statement (.dist52 x) :=
  of_width rfl (by decide) (by decide)
theorem dist53 (x : BitVec 12) : Statement (.dist53 x) :=
  of_width rfl (by decide) (by decide)
theorem dist54 (x : BitVec 12) : Statement (.dist54 x) :=
  of_width rfl (by decide) (by decide)
theorem dist55 (x : BitVec 12) : Statement (.dist55 x) :=
  of_width rfl (by decide) (by decide)
theorem dist56 (x : BitVec 12) : Statement (.dist56 x) :=
  of_width rfl (by decide) (by decide)
theorem dist57 (x : BitVec 15) : Statement (.dist57 x) :=
  of_width rfl (by decide) (by decide)
theorem dist58 (x : BitVec 15) : Statement (.dist58 x) :=
  of_width rfl (by decide) (by decide)
theorem dist59 (x : BitVec 15) : Statement (.dist59 x) :=
  of_width rfl (by decide) (by decide)
theorem dist60 (x : BitVec 16) : Statement (.dist60 x) :=
  of_width rfl (by decide) (by decide)
theorem dist61 (x : BitVec 16) : Statement (.dist61 x) :=
  of_width rfl (by decide) (by decide)
theorem dist62 (x : BitVec 17) : Statement (.dist62 x) :=
  of_width rfl (by decide) (by decide)
theorem dist63 (x : BitVec 17) : Statement (.dist63 x) :=
  of_width rfl (by decide) (by decide)

end Sys2Proof.Laws.EncodedInRange
end

