-- ==== Sys2Proof/Laws/Reader.lean ====
section
/-! SUPPORT. What the bit reader's operations keep (46_bit_reader.md R650 to R653): the payload they read, clean pending bits,
and the one error they raise. -/

namespace Sys2Proof.Laws

open Sys2Proof.Machine

/-- `GetBits` serves the bits from the accumulator, or loads one word. -/
theorem getBits_ok {mem : Memory} {k v : Nat} {r r' : Reader} (h : getBits mem k r = .ok (v, r')) :
    (k ≤ r.k.toNat ∧ v = (r.acc &&& maskWord k).toNat ∧
      r' = { r with acc := r.acc >>> k, k := BitVec.ofNat 5 (r.k.toNat - k) }) ∨
    (r.k.toNat < k ∧ r.rp.toNat + 4 ≤ r.len.toNat ∧
      v = (r.acc ||| ((mem.readWord (r.base + r.rp) &&& maskWord (k - r.k.toNat)) <<< r.k.toNat)).toNat ∧
      r' = { r with
        rp := r.rp + 4
        acc := if k - r.k.toNat = 32 then 0 else mem.readWord (r.base + r.rp) >>> (k - r.k.toNat)
        k := BitVec.ofNat 5 (32 - (k - r.k.toNat)) }) := by
  unfold getBits at h
  split at h
  · rename_i hk; cases h; exact .inl ⟨hk, rfl, rfl⟩
  · rename_i hk
    unfold refill at h
    split at h
    · rename_i heq; split at heq <;> cases heq; cases h
    · rename_i w r1 heq
      split at heq
      · cases heq
      · rename_i hl; cases heq; cases h
        exact .inr ⟨by omega, by omega, rfl, rfl⟩

/-- The only error of `GetBits` is a missing word (R652). -/
theorem getBits_error {mem : Memory} {k : Nat} {r : Reader} {e : Stop} (h : getBits mem k r = .error e) :
    e = .error .truncatedInput r.offset ∧ r.k.toNat < k ∧ r.len.toNat < r.rp.toNat + 4 := by
  unfold getBits at h
  split at h
  · cases h
  · rename_i hk
    unfold refill at h
    split at h
    · rename_i heq
      split at heq
      · rename_i hl; cases heq; cases h; exact ⟨rfl, by omega, hl⟩
      · cases heq
    · cases h

theorem getBits_keeps {mem : Memory} {k v : Nat} {r r' : Reader} (h : getBits mem k r = .ok (v, r')) :
    r'.base = r.base ∧ r'.len = r.len := by
  rcases getBits_ok h with ⟨_, _, rfl⟩ | ⟨_, _, _, rfl⟩ <;> exact ⟨rfl, rfl⟩

theorem maskWord_toNat {k : Nat} (hk : k ≤ 32) : (maskWord k).toNat = 2 ^ k - 1 := by
  have h : 2 ^ k ≤ 2 ^ 32 := Nat.pow_le_pow_right (by omega) hk
  have h0 : 0 < 2 ^ k := Nat.two_pow_pos k
  rw [maskWord, BitVec.toNat_ofNat]; omega

/-- Clean pending bits stay clean, and the value fits its width (R650, R651). -/
theorem getBits_clean {mem : Memory} {k v : Nat} {r r' : Reader} (hk : k ≤ 32) (hc : r.Clean)
    (h : getBits mem k r = .ok (v, r')) : r'.Clean ∧ v < 2 ^ k := by
  unfold Reader.Clean at *
  have hrk := r.k.isLt
  rcases getBits_ok h with ⟨h1, rfl, rfl⟩ | ⟨h1, _, rfl, rfl⟩
  · constructor
    · simp only [BitVec.toNat_ushiftRight, BitVec.toNat_ofNat]
      rw [Nat.mod_eq_of_lt (by omega), Nat.shiftRight_eq_div_pow, Nat.div_lt_iff_lt_mul (Nat.two_pow_pos k), ← Nat.pow_add]
      rwa [Nat.sub_add_cancel h1]
    · rw [BitVec.toNat_and, maskWord_toNat hk]
      exact lt_of_le_of_lt Nat.and_le_right (Nat.sub_lt (Nat.two_pow_pos k) Nat.one_pos)
  · constructor
    · simp only [BitVec.toNat_ofNat]
      rw [Nat.mod_eq_of_lt (by omega)]
      split
      · exact Nat.two_pow_pos _
      · rw [BitVec.toNat_ushiftRight, Nat.shiftRight_eq_div_pow, Nat.div_lt_iff_lt_mul (Nat.two_pow_pos _), ← Nat.pow_add]
        rw [show 32 - (k - r.k.toNat) + (k - r.k.toNat) = 32 by omega]
        exact (mem.readWord (r.base + r.rp)).isLt
    · rw [BitVec.toNat_or]
      refine Nat.or_lt_two_pow (lt_of_lt_of_le hc (Nat.pow_le_pow_right (by omega) (by omega))) ?_
      rw [BitVec.toNat_shiftLeft, BitVec.toNat_and, maskWord_toNat (by omega)]
      refine lt_of_le_of_lt (Nat.mod_le _ _) ?_
      rw [Nat.shiftLeft_eq]
      have h2 : (mem.readWord (r.base + r.rp)).toNat &&& (2 ^ (k - r.k.toNat) - 1) < 2 ^ (k - r.k.toNat) :=
        lt_of_le_of_lt Nat.and_le_right (Nat.sub_lt (Nat.two_pow_pos _) Nat.one_pos)
      calc _ < 2 ^ (k - r.k.toNat) * 2 ^ r.k.toNat := Nat.mul_lt_mul_of_pos_right h2 (Nat.two_pow_pos _)
        _ = 2 ^ k := by rw [← Nat.pow_add, Nat.sub_add_cancel (by omega)]

theorem alignReader_ok {mem : Memory} {r r' : Reader} (h : alignReader mem r = .ok r') :
    ∃ v, getBits mem (r.k.toNat % 8) r = .ok (v, r') := by
  unfold alignReader at h
  split at h
  · cases h
  · rename_i v r1 h1; cases h; exact ⟨v, h1⟩

theorem storedBytes_keeps {dst : Word} {k i : Nat} {m m' : Memory} {r r' : Reader}
    (h : storedBytes dst k i m r = .ok (m', r')) : r'.base = r.base ∧ r'.len = r.len ∧ (r.Clean → r'.Clean) := by
  induction k generalizing i m r with
  | zero => cases h; exact ⟨rfl, rfl, id⟩
  | succ n ih =>
    rw [storedBytes] at h
    split at h
    · cases h
    · rename_i b r1 h1
      obtain ⟨a, b, c⟩ := ih h
      obtain ⟨a', b'⟩ := getBits_keeps h1
      exact ⟨a.trans a', b.trans b', fun hc => c (getBits_clean (by omega) hc h1).1⟩

theorem readLengths3_keeps {mem : Memory} {k : Nat} {l : List Nat} {r r' : Reader}
    (h : readLengths3 mem k r = .ok (l, r')) :
    r'.base = r.base ∧ r'.len = r.len ∧ l.length = k ∧ (r.Clean → r'.Clean ∧ ∀ v ∈ l, v ≤ 7) := by
  induction k generalizing l r with
  | zero => cases h; exact ⟨rfl, rfl, rfl, fun hc => ⟨hc, by simp⟩⟩
  | succ n ih =>
    rw [readLengths3] at h
    split at h
    · cases h
    · rename_i v r1 h1
      split at h
      · cases h
      · rename_i vs r2 h2
        cases h
        obtain ⟨a, b, c, d⟩ := ih h2
        obtain ⟨a', b'⟩ := getBits_keeps h1
        refine ⟨a.trans a', b.trans b', by simp [c], fun hc => ?_⟩
        obtain ⟨c1, c2⟩ := getBits_clean (by omega) hc h1
        obtain ⟨d1, d2⟩ := d c1
        refine ⟨d1, ?_⟩
        simp only [List.mem_cons, forall_eq_or_imp]
        exact ⟨by omega, d2⟩

theorem getCodeFrom_keeps {mem : Memory} {t : List Slot} {k node s : Nat} {r r' : Reader}
    (h : getCodeFrom mem t k node r = .ok (s, r')) : r'.base = r.base ∧ r'.len = r.len ∧ (r.Clean → r'.Clean) := by
  induction k generalizing node r with
  | zero => cases h
  | succ n ih =>
    rw [getCodeFrom] at h
    split at h
    · cases h
    · rename_i b r1 h1
      obtain ⟨a', b'⟩ := getBits_keeps h1
      split at h
      · cases h
      · cases h; exact ⟨a', b', fun hc => (getBits_clean (by omega) hc h1).1⟩
      · obtain ⟨a, b, c⟩ := ih h
        exact ⟨a.trans a', b.trans b', fun hc => c (getBits_clean (by omega) hc h1).1⟩

/-- A symbol has at most 17 extra bits (42_symbol_mapping.md R450, R455, 47_block_decoder.md R706). -/
theorem extraBits_le (f : Sys2Proof.Format) (sym : Nat) : Sys2Proof.extraBits f sym ≤ 17 := by
  have small : ∀ (t : List (Nat × Nat)) (i : Nat), (∀ p ∈ t, p.2 ≤ 17) → (t.getD i (0, 0)).2 ≤ 17 := by
    intro t i ht
    rw [List.getD_eq_getElem?_getD]
    cases h : t[i]? with
    | none => simp
    | some p => exact ht p (List.mem_of_getElem? h)
  cases f with
  | cmdw => simp [Sys2Proof.extraBits]
  | hdr => simp [Sys2Proof.extraBits]
  | btype => simp [Sys2Proof.extraBits]
  | clsym =>
    simp only [Sys2Proof.extraBits, Sys2Proof.runExtra]; split
    · omega
    · exact small _ _ (by decide)
  | llsym =>
    simp only [Sys2Proof.extraBits, Sys2Proof.lenExtra]; split
    · omega
    · exact small _ _ (by decide)
  | dsym => exact small _ _ (by decide)

/-- A token's fetch keeps the payload and clean bits, and gives an instruction of its format. -/
theorem readToken_ok {mem : Memory} {f : Sys2Proof.Format} {tree : List Slot} {p : Nat → Bool} {r r' : Reader}
    {i : Sys2Proof.Instr} (h : readToken mem f tree p r = .ok (i, r')) :
    ∃ sym r1 x, getCode mem tree r = .ok (sym, r1) ∧
      getBits mem (if p sym then Sys2Proof.extraBits f sym else 0) r1 = .ok (x, r') ∧
      Sys2Proof.decodeSym f sym x = .ok i ∧ r'.base = r.base ∧ r'.len = r.len ∧ (r.Clean → r'.Clean) := by
  unfold readToken at h
  split at h
  · cases h
  · rename_i sym r1 h1
    split at h
    · cases h
    · rename_i x r2 h2
      split at h
      · rename_i j h3
        cases h
        obtain ⟨a, b, c⟩ := getCodeFrom_keeps h1
        obtain ⟨a', b'⟩ := getBits_keeps h2
        refine ⟨sym, r1, x, h1, h2, h3, a'.trans a, b'.trans b, fun hc => (getBits_clean ?_ (c hc) h2).1⟩
        have := extraBits_le f sym
        split <;> omega
      · cases h

end Sys2Proof.Laws
end

