-- ==== Sys2Proof/Tests/Slice0.lean ====
section
/-! SUPPORT. Tests: the checks of WellFormed, every constructor's decoding from a word written out from spec/30_encoding.md,
single steps and operations against the values of spec/95_test_vectors.md, and one witness for every statement that has
hypotheses. -/

namespace Sys2Proof.Tests

open Sys2Proof Sys2Proof.Machine

/-! WellFormed -/

/-- R302: a stored-form header is negative. -/
theorem test_wf_refuses_stored_header_of_positive : (Instr.hdrStored 200).wellFormed = false := by decide

/-- R302: a header of 0 is the empty stored form, a row of its own. -/
theorem test_wf_refuses_stored_header_of_zero : (Instr.hdrStored 0).wellFormed = false := by decide

/-- R302: a Huffman-form header is positive. -/
theorem test_wf_refuses_huffman_header_of_negative : (Instr.hdrHuffman 0xFFFFFFFD).wellFormed = false := by decide

/-- R302: a Huffman-form header is not 0. -/
theorem test_wf_refuses_huffman_header_of_zero : (Instr.hdrHuffman 0).wellFormed = false := by decide

/-! Decoding, word by word -/

/-- Each word decodes to its instruction in the format, and is what the instruction encodes to. -/
def reads (f : Format) (l : List (Nat × Instr)) : Bool :=
  l.all (fun p => decide (decodeWord f p.1 = .ok p.2) && decide (encodeWord p.2 = p.1))

/-- R301: `OP` in bits 2:0 and `LEVEL` in bits 5:4. -/
theorem test_decode_command_words :
    reads .cmdw
    [(0x00, .nop), (0x01, .compress .fastest), (0x11, .compress .fast), (0x21, .compress .normal),
     (0x31, .compress .maximum), (0x02, .decompress), (0x03, .getLength), (0x04, .measure .fastest),
     (0x24, .measure .normal), (0x05, .reservedOp5), (0x06, .reservedOp6), (0x07, .reservedOp7)] = true := by
  decide

/-- R301: the reserved bits 31:6 and 3 of a command word are ignored. -/
theorem test_decode_command_ignores_reserved_bits :
    decodeWord .cmdw 0xC1 = .ok (.compress .fastest) ∧ decodeWord .cmdw 0xFFFFFFCA = .ok .decompress := by decide

/-- R302: the header's sign tells its form. -/
theorem test_decode_header_words :
    reads .hdr
    [(0, .hdrStoredEmpty), (0xFFFFFFFD, .hdrStored 0xFFFFFFFD), (0x80000000, .hdrStored 0x80000000),
     (200, .hdrHuffman 200), (0x7FFFFFFF, .hdrHuffman 0x7FFFFFFF)] = true := by
  decide

/-- R305: block type 0 is a stored block, 1 a compressed one. -/
theorem test_decode_block_words : reads .btype [(0, .storedBlock), (1, .compressedBlock)] = true := by decide

/-- R311: literal/length symbols 0 to 255 are literal bytes. -/
theorem test_decode_literal_words : reads .llsym [(0x00, .lit 0x00), (0x61, .lit 0x61), (0xFF, .lit 0xFF)] = true := by
  decide

/-- R310, R311: symbols past the alphabets are refused by name. -/
theorem test_decode_refuses_reserved_symbols :
    decodeWord .clsym 20 = .error (.reservedCodeLengthSymbol 20) ∧
    decodeWord .llsym 320 = .error (.reservedLiteralSymbol 320) ∧
    decodeWord .clsym 0x2F = .error (.extraBitsOutOfRange 1) := by decide

/-- R310, R706: the word of a code-length token is its symbol in bits 4:0 and its extra bits above. -/
theorem test_decode_code_length_words :
    reads .clsym
    [(0x0, .clLen0), (0x1, .clLen1), (0x2, .clLen2), (0x3, .clLen3), (0x4, .clLen4), (0x5, .clLen5),
     (0x6, .clLen6), (0x7, .clLen7), (0x8, .clLen8), (0x9, .clLen9), (0xA, .clLen10), (0xB, .clLen11),
     (0xC, .clLen12), (0xD, .clLen13), (0xE, .clLen14), (0xF, .clRep2), (0x30, .clRep3_4 1), (0x51, .clRep5_8 2),
     (0xB2, .clRep9_16 5), (0x833, .clRep17_144 65)] = true := by
  decide

/-- R311, R450: the word of `LEN_i` is `256 + i` in bits 8:0 and its extra bits above; codes 0 to 31. -/
theorem test_decode_length_words_0 :
    reads .llsym
    [(0x100, .len0), (0x101, .len1), (0x102, .len2), (0x103, .len3), (0x104, .len4), (0x105, .len5),
     (0x106, .len6), (0x107, .len7), (0x108, .len8), (0x109, .len9), (0x10A, .len10), (0x10B, .len11),
     (0x10C, .len12), (0x10D, .len13), (0x10E, .len14), (0x10F, .len15), (0x310, .len16 1), (0x311, .len17 1),
     (0x312, .len18 1), (0x313, .len19 1), (0x314, .len20 1), (0x315, .len21 1), (0x316, .len22 1),
     (0x317, .len23 1), (0x318, .len24 1), (0x319, .len25 1), (0x31A, .len26 1), (0x31B, .len27 1),
     (0x31C, .len28 1), (0x31D, .len29 1), (0x31E, .len30 1), (0x31F, .len31 1)] = true := by
  decide

/-- R311, R450: the words of `LEN_32` to `LEN_63`. -/
theorem test_decode_length_words_1 :
    reads .llsym
    [(0x520, .len32 2), (0x521, .len33 2), (0x522, .len34 2), (0x523, .len35 2), (0x524, .len36 2),
     (0x525, .len37 2), (0x526, .len38 2), (0x527, .len39 2), (0x528, .len40 2), (0x529, .len41 2),
     (0x52A, .len42 2), (0x52B, .len43 2), (0x52C, .len44 2), (0x52D, .len45 2), (0x52E, .len46 2),
     (0x52F, .len47 2), (0xB30, .len48 5), (0xB31, .len49 5), (0xB32, .len50 5), (0xB33, .len51 5),
     (0xB34, .len52 5), (0xB35, .len53 5), (0xB36, .len54 5), (0xB37, .len55 5), (0x1338, .len56 9),
     (0x1339, .len57 9), (0x133A, .len58 9), (0x133B, .len59 9), (0x433C, .len60 33), (0x433D, .len61 33),
     (0x1033E, .len62 129), (0x40033F, .len63 8193)] = true := by
  decide

/-- R312, R455: the word of a distance token is its code in bits 5:0 and its extra bits above; codes 0 to 31. -/
theorem test_decode_distance_words_0 :
    reads .dsym
    [(0x0, .rep0), (0x1, .rep1), (0x2, .rep2), (0x3, .dist3), (0x4, .dist4), (0x5, .dist5), (0x6, .dist6),
     (0x7, .dist7), (0x8, .dist8), (0x49, .dist9 1), (0x4A, .dist10 1), (0x4B, .dist11 1), (0x4C, .dist12 1),
     (0x8D, .dist13 2), (0x8E, .dist14 2), (0x8F, .dist15 2), (0x90, .dist16 2), (0x151, .dist17 5),
     (0x152, .dist18 5), (0x153, .dist19 5), (0x154, .dist20 5), (0x255, .dist21 9), (0x256, .dist22 9),
     (0x257, .dist23 9), (0x258, .dist24 9), (0x459, .dist25 17), (0x45A, .dist26 17), (0x45B, .dist27 17),
     (0x45C, .dist28 17), (0x85D, .dist29 33), (0x85E, .dist30 33), (0x85F, .dist31 33)] = true := by
  decide

/-- R312, R455: the words of `DIST_32` to `DIST_63`. -/
theorem test_decode_distance_words_1 :
    reads .dsym
    [(0x860, .dist32 33), (0x1061, .dist33 65), (0x1062, .dist34 65), (0x1063, .dist35 65), (0x1064, .dist36 65),
     (0x2065, .dist37 129), (0x2066, .dist38 129), (0x2067, .dist39 129), (0x2068, .dist40 129),
     (0x4069, .dist41 257), (0x406A, .dist42 257), (0x406B, .dist43 257), (0x406C, .dist44 257),
     (0x806D, .dist45 513), (0x806E, .dist46 513), (0x806F, .dist47 513), (0x8070, .dist48 513),
     (0x10071, .dist49 1025), (0x10072, .dist50 1025), (0x10073, .dist51 1025), (0x10074, .dist52 1025),
     (0x20075, .dist53 2049), (0x20076, .dist54 2049), (0x20077, .dist55 2049), (0x20078, .dist56 2049),
     (0x100079, .dist57 16385), (0x10007A, .dist58 16385), (0x10007B, .dist59 16385), (0x20007C, .dist60 32769),
     (0x20007D, .dist61 32769), (0x40007E, .dist62 65537), (0x40007F, .dist63 65537)] = true := by
  decide

/-! Operations, against spec/95_test_vectors.md -/

/-- SM-L: length codes at the edges of their bands. -/
theorem test_length_codes :
    [3, 18, 19, 50, 51, 130, 131, 194, 195, 258, 514, 515, 17009, 17010].map lenCode =
      [(0, 0), (15, 0), (16, 0), (31, 1), (32, 0), (49, 7), (50, 0), (56, 15), (57, 0), (60, 15), (62, 143), (62, 144),
       (63, 16382), (63, 16383)] := by decide

/-- SM-D: distance codes at the edges of their bands, up to 12 extra bits. -/
theorem test_distance_codes :
    [3, 8, 9, 12, 16, 17, 4096, 4097, 32768].map distCode =
      [(3, 0), (8, 0), (9, 0), (10, 1), (12, 1), (13, 0), (44, 511), (45, 0), (56, 4095)] := by decide

/-- SM-D: distance codes of the three widest bands. -/
theorem test_far_distance_codes :
    [32769, 65536, 131073, 393216, 393217, 524288].map distCode =
      [(57, 0), (57, 32767), (60, 0), (62, 131071), (63, 0), (63, 131071)] := by rfl

/-- SM-C: the encoder cache (R460). -/
theorem test_map_dist_promotes :
    mapDist { r0 := 7, r1 := 5, r2 := 0 } 5 = ((1, 0), { r0 := 5, r1 := 7, r2 := 0 }) ∧
    mapDist { r0 := 9, r1 := 5, r2 := 7 } 7 = ((2, 0), { r0 := 7, r1 := 9, r2 := 5 }) ∧
    mapDist { r0 := 7, r1 := 9, r2 := 5 } 11 = ((10, 0), { r0 := 11, r1 := 7, r2 := 9 }) := by decide

/-- MF-A: the near-match rule at its boundaries (R408). -/
theorem test_near_matches :
    accepts 3 4096 = true ∧ accepts 3 4097 = false ∧ accepts 4 32768 = true ∧ accepts 4 32769 = false ∧
    accepts 2 3 = false := by decide

/-- MF-1, MF-2: a far match loses a tie by one byte and wins by three (R409). -/
theorem test_better_match : better 6 73 (some (5, 6)) = false ∧ better 8 74 (some (5, 6)) = true := by decide

/-- MF-H: the hash of "abc" at the four levels (R401). -/
theorem test_hash :
    let e : Source := { n := 3, src := fun i => BitVec.ofNat 8 (0x61 + i) }
    [0, 1, 2, 3].map (fun l => hashAt e (Config.profileTable l) 0) = [0x743, 0x823, 0x8E3, 0x8E3] := by decide

/-- Section 2.4: code lengths and canonical codes (R501 to R507). -/
theorem test_huffman_lengths :
    (buildLengths ([5, 1, 1, 2] ++ List.replicate 16 0) 20 7).lens = [1, 3, 3, 2] ++ List.replicate 16 0 ∧
    canon [1, 3, 3, 2] 7 = [0, 6, 7, 2] ∧ reversedCodes [1, 3, 3, 2] 7 = [0, 3, 7, 1] := by decide

/-- Section 2.4: the length limiting of R504 to R506. -/
theorem test_huffman_limit :
    (buildLengths ([1, 1, 2, 3, 5, 8, 13, 21, 34, 55] ++ List.replicate 10 0) 20 7).lens =
      [7, 7, 7, 7, 6, 6, 4, 3, 2, 1] ++ List.replicate 10 0 := by decide

/-- S6: runs of 2, 8 and 18 equal lengths (R554). -/
theorem test_rle_items :
    rle (List.replicate 8 5) = [{ t := 5, e := 0, x := 0 }, { t := 17, e := 2, x := 2 }] ∧
    rle (List.replicate 2 5) = [{ t := 5, e := 0, x := 0 }, { t := 5, e := 0, x := 0 }] ∧
    rle (List.replicate 18 5) = [{ t := 5, e := 0, x := 0 }, { t := 19, e := 7, x := 0 }] := by decide

/-- Section 2.6: the tree of lengths 2, 1, 2 (R709). -/
theorem test_build_tree :
    buildTree [2, 1, 2] 3 7 = some [.leaf 1, .node 1, .leaf 0, .leaf 2] ∧ buildTree [1, 2, 2, 2] 4 7 = none := by decide

/-- Host memory that holds the bytes `l` from address `a` on. -/
def memAt (a : Nat) (l : List Byte) : Memory := { cells := l.zipIdx.map (fun p => (a + p.2, p.1)), unspec := [] }

/-- The 8 bytes of the vectors W1 and R1. -/
def streamW1 : List Byte := [0xFB, 0xFF, 0xBF, 0x79, 0x75, 0x00, 0x00, 0x00]

/-- A compressor part with an empty writer of `cap` payload bytes at 0x2004. -/
def emptyWork (cap : Word) (mode : WMode) : Work :=
  { State.reset.work with wr := { acc := 0, k := 0, words := 0, cap := cap, base := 0x2004, mode := mode } }

/-- W1: fields are packed from the least significant bit on, and the final word is padded with zeros (R601 to R604). -/
theorem test_put_bits :
    (((putFields [(1, 1), (5, 3), (0x1FFFF, 17), (0xABCD, 16), (0, 0), (3, 2)] (emptyWork 8 .write)).andThen
      finalFlush).work.mem = memAt 0x2004 streamW1) := by decide

/-- R1: the reader gives the fields back (R651). -/
theorem test_get_bits :
    let r0 : Reader := { acc := 0, k := 0, rp := 0, len := 8, base := 0x1004 }
    let mem := memAt 0x1004 streamW1
    (match getBits mem 1 r0 with
     | .error _ => none
     | .ok (a, r1) =>
       match getBits mem 3 r1 with
       | .error _ => none
       | .ok (b, r2) =>
         match getBits mem 17 r2 with
         | .error _ => none
         | .ok (c, r3) =>
           match getBits mem 16 r3 with
           | .error _ => none
           | .ok (d, r4) => some ([a, b, c, d], r4.rp.toNat, r4.k.toNat)) =
      some ([1, 5, 0x1FFFF, 0xABCD], 8, 27) := by decide

/-! Single steps, against spec/95_test_vectors.md -/

/-- A command whose operands are latched, at a phase of its work. -/
def running (phase : Phase) (op : BitVec 3) (src n dst cap : Word) (mem : Memory) : State :=
  { State.reset with
    regs := { Regs.reset with busy := true, cmdOp := op }
    lat := { op := op, level := 0, src := src, n := n, dst := dst, cap := cap }
    mem := mem
    phase := phase }

/-- A DECOMPRESS of `n` source bytes at 0x1000 into 100 bytes at 0x2000, of whose `m` output bytes `out` are written. -/
def decoding (phase : Phase) (n out m : Word) (mem : Memory) : State :=
  { running phase 2 0x1000 n 0x2000 100 mem with
    rd := { acc := 0, k := 0, rp := 0, len := n - 4, base := 0x1004 }
    dec := { Decoder.reset with out := out, m := m } }

/-- The registers a step leaves: `STATUS`, `ERRCODE`, `RESULT_LEN`, `RESULT_INFO`, `ERR_OFFSET`. -/
def results (o : Host.Outcome State Fault Refusal) : Option (List Word) :=
  match o with
  | .next s => some ([0x08, 0x0C, 0x20, 0x24, 0x28].map s.regs.readAt)
  | .fault _ => none
  | .refused _ => none

/-- The known bytes a step leaves at an address and after it. -/
def bytes (o : Host.Outcome State Fault Refusal) (a : Word) (k : Nat) : List Byte :=
  match o with
  | .next s => (List.range k).map (fun i => s.mem.read (a + BitVec.ofNat 32 i))
  | .fault _ => []
  | .refused _ => []

/-- The state a step leaves, or the state before it. -/
def after (s : State) (o : Host.Outcome State Fault Refusal) : State :=
  match o with
  | .next t => t
  | .fault _ => s
  | .refused _ => s

/-- H-16. -/
theorem test_nop : results (exec .nop (running .start 0 0 0 0 0 Memory.unknown)) = some [2, 0, 0, 0, 0] := by decide

/-- H-17. -/
theorem test_reserved_op : results (exec .reservedOp6 (running .start 6 0 0 0 0 Memory.unknown)) = some [4, 7, 0, 0, 0] := by
  decide

/-- H-1: a null source. -/
theorem test_compress_null_input :
    results (exec (.compress .normal) (running .start 1 0 4 0x8000 8 Memory.unknown)) = some [4, 1, 0, 0, 0] := by decide

/-- H-5: overlapping ranges. -/
theorem test_compress_bad_range :
    results (exec (.compress .normal) (running .start 1 0x1000 200 0x10C0 204 Memory.unknown)) = some [4, 6, 0, 0, 0] := by
  decide

/-- P3: three bytes are stored. -/
theorem test_compress_stores_short_input :
    let o := exec (.compress .fastest) (running .start 1 0x1000 3 0x2000 7 (memAt 0x1000 [0x61, 0x62, 0x63]))
    results o = some [2, 0, 7, 0, 0] ∧ bytes o 0x2000 7 = [0xFD, 0xFF, 0xFF, 0xFF, 0x61, 0x62, 0x63] := by decide

/-- H-8: the length of a Huffman form. -/
theorem test_get_length_huffman :
    results (exec .getLength (running .start 3 0x1000 4 0 0 (memAt 0x1000 [0xC8, 0, 0, 0]))) = some [2, 0, 200, 1, 0] := by
  decide

/-- H-10: the length of `h = -2^31`. -/
theorem test_get_length_most_negative :
    results (exec .getLength (running .start 3 0x1000 4 0 0 (memAt 0x1000 [0, 0, 0, 0x80]))) =
      some [2, 0, 0x80000000, 0, 0] := by decide

/-- H-15: the measured size of three bytes. -/
theorem test_measure_short_input :
    results (exec (.measure .fastest) (running .start 4 0x1000 3 0 0 (memAt 0x1000 [0x78, 0x79, 0x7A]))) =
      some [2, 0, 7, 0, 0] := by decide

/-- D-6: a source shorter than a header. -/
theorem test_decompress_truncated_header :
    results (exec .decompress (running .start 2 0x1000 3 0x2000 0 (memAt 0x1000 [1, 0, 0]))) = some [4, 3, 0, 0, 0] := by
  decide

/-- D-3: a stored form is copied. -/
theorem test_header_stored_copies :
    let o := step (decoding .header 7 0 0 (memAt 0x1000 [0xFD, 0xFF, 0xFF, 0xFF, 0x78, 0x79, 0x7A]))
    results o = some [2, 0, 3, 0, 0] ∧ bytes o 0x2000 3 = [0x78, 0x79, 0x7A] := by decide

/-- D-5: a stored form with too few payload bytes. -/
theorem test_header_stored_truncated :
    results (step (decoding .header 9 0 0 (memAt 0x1000 [0xF6, 0xFF, 0xFF, 0xFF, 0x31, 0x32, 0x33, 0x34, 0x35]))) =
      some [4, 3, 0, 0, 4] := by decide

/-- D-2: the empty stored form. -/
theorem test_header_empty :
    results (step (decoding .header 4 0 0 (memAt 0x1000 [0, 0, 0, 0]))) = some [2, 0, 0, 0, 0] := by decide

/-- D-1, first step: the Huffman form sets `m` and starts the blocks. -/
theorem test_header_huffman :
    let t := after State.reset (step { decoding .header 20 0 0 (memAt 0x1000 [0x64, 0, 0, 0]) with rd := Reader.reset })
    t.phase = .block ∧ t.dec.m = 100 ∧ t.rd = { acc := 0, k := 0, rp := 0, len := 16, base := 0x1004 } := by decide

/-- D-7: a stored block, from its type bit on. -/
theorem test_stored_block :
    let o := step (decoding .block 12 0 3 (memAt 0x1004 [0x00, 0x00, 0x48, 0x69, 0x21, 0, 0, 0]))
    results o = some [2, 0, 3, 1, 0] ∧ bytes o 0x2000 3 = [0x48, 0x69, 0x21] := by decide

/-- P1: the code-length table and the literal count of a compressed block. -/
theorem test_compressed_block :
    let t := after State.reset
      (step (decoding .block 20 0 100 (memAt 0x1004 [0x15, 0, 0, 0, 0, 0, 0, 0x28, 0xEF, 0xA7, 0xFE, 0x5F])))
    t.phase = .rle .literal 314 0 ∧ t.dec.lensCl = [2, 1] ++ List.replicate 17 0 ++ [2] ∧ t.rd.position = 67 := by decide

/-- D-8: code-length lengths that are all 0. -/
theorem test_compressed_block_corrupt :
    results (step (decoding .block 12 0 5 (memAt 0x1004 [1, 0, 0, 0, 0, 0, 0, 0]))) = some [4, 4, 0, 0, 12] := by decide

/-- P1: the item `(19, 7, 79)` after a length 0 repeats it 96 times (R706). -/
theorem test_code_length_repeat :
    (after State.reset (exec (.clRep17_144 79) (decoding (.rle .literal 314 1) 20 0 100 Memory.unknown))).phase =
      .rle .literal 314 97 := by decide

/-- D-9: a repeat as the first item. -/
theorem test_code_length_repeat_first :
    results (exec .clRep2 (decoding (.rle .literal 257 0) 20 0 100 Memory.unknown)) = some [4, 4, 0, 0, 4] := by decide

/-- A literal goes to the next output byte (R754). -/
theorem test_literal :
    let o := exec (.lit 0x61) (decoding .symbol 20 2 100 Memory.unknown)
    bytes o 0x2002 1 = [0x61] ∧ (after State.reset o).dec.out = 3 ∧ (after State.reset o).phase = .symbol := by decide

/-- P1: `LEN 57` with extra value 2 is length 197 (R755). -/
theorem test_length :
    (after State.reset (exec (.len57 2) (decoding .symbol 20 3 100 Memory.unknown))).phase = .dist 197 := by decide

/-- R759: a copy of length 6 at distance 3 after "abc" (vector D-13), which pushes the distance. -/
theorem test_distance :
    let o := exec .dist3 (decoding (.dist 6) 20 3 100 (memAt 0x2000 [0x61, 0x62, 0x63]))
    bytes o 0x2000 9 = [0x61, 0x62, 0x63, 0x61, 0x62, 0x63, 0x61, 0x62, 0x63] ∧
      (after State.reset o).cache = { r0 := 3, r1 := 0, r2 := 0 } := by decide

/-- SM-R: `REP2` from the cache (9, 7, 5) uses 5 and rotates it to the front (R461). -/
theorem test_rep2 :
    let s := { decoding (.dist 4) 20 24 28 (memAt 0x2013 [0x68, 0x69, 0x6A, 0x68, 0x6C]) with
      cache := { r0 := 9, r1 := 7, r2 := 5 } }
    let o := exec .rep2 s
    bytes o 0x2018 4 = [0x68, 0x69, 0x6A, 0x68] ∧ (after s o).cache = { r0 := 5, r1 := 9, r2 := 7 } := by decide

/-- D-10: `REP0` with an empty cache. -/
theorem test_rep0_empty :
    results (exec .rep0 (decoding (.dist 3) 20 3 100 Memory.unknown)) = some [4, 4, 0, 0, 4] := by decide

/-- D-11: a distance of 5 after one byte. -/
theorem test_distance_too_far :
    results (exec .dist5 (decoding (.dist 3) 20 1 4 Memory.unknown)) = some [4, 4, 0, 0, 4] := by decide

/-- H-18, P7: the reserved bits of `CMD` are not stored; a second `CMD` write only sets `OVERRUN`. -/
theorem test_cmd_write :
    let t := after State.reset (step { State.reset with inputs := [.regWrite 32 4 0xC1] })
    t.regs.readAt 4 = 1 ∧ t.regs.readAt 8 = 1 ∧
      (after t (step { t with inputs := [.regWrite 32 4 0x02] })).regs.readAt 8 = 9 := by decide

/-- The host's placement of a table word: the next step runs `LEN_57` with extra value 2 (log entry 12). -/
theorem test_fetch_word :
    (after State.reset (step (State.reset.withFetchWord 16 0x539))).phase = .dist 197 := by decide

/-- R958, R759: an overlap copy of 2 bytes at distance 3 is 2 reads, 2 writes and an update; the first write is the second
access. -/
theorem test_ticks_of_copy :
    let s := decoding (.dist 2) 8 3 100 (memAt 0x1004 [0, 0, 0, 0, 0x61, 0x62, 0x63])
    let u := { s with
      mem := memAt 0x2000 [0x61, 0x62, 0x63]
      rd := { acc := 0, k := 8, rp := 4, len := 4, base := 0x1004 }
      dec := { s.dec with distTree := twoLeaves 3 4 } }
    accesses u = [.read 0x2000, .write 0x2003 0x61, .read 0x2001, .write 0x2004 0x62] ∧
      bytes (engineTicks 2 u) 0x2000 4 = [0x61, 0x62, 0x63, 0x61] ∧ (after u (engineTicks 4 u)).made = 4 ∧
      (after u (engineTicks 5 u)).made = 0 ∧ (after u (engineTicks 5 u)).dec.out = 5 := by decide

/-! Witnesses: for every statement with hypotheses, concrete states and operands that meet them together, clause by clause
at the edges of their ranges. -/

set_option maxRecDepth 8000

/-- The lengths of a code of two 1-bit codes, for the symbols 0 and 1 of `n`. -/
def twoCodes (n : Nat) : List Nat := [1, 1] ++ List.replicate (n - 2) 0

theorem twoCodes_complete :
    CompleteCode (twoCodes 20) 20 7 ∧ CompleteCode (twoCodes 64) 64 14 ∧ CompleteCode (twoCodes 320) 320 14 := by
  unfold CompleteCode; decide

/-- The tree of the two codes of `twoCodes`. -/
def twoTree (n : Nat) : List Slot := [.leaf 0, .leaf 1] ++ List.replicate (2 * (n - 1) - 2) .empty

theorem twoTree_built :
    buildTree (twoCodes 20) 20 7 = some (twoTree 20) ∧ buildTree (twoCodes 64) 64 14 = some (twoTree 64) ∧
    buildTree (twoCodes 320) 320 14 = some (twoTree 320) := by decide

/-- 20 zero bytes of payload, at 0x1004. -/
def zeros : Memory := memAt 0x1004 (List.replicate 20 0)

/-- A decoder in the middle of its symbols, with a code in which the literals 0 and 1 have one bit. -/
def litState : State :=
  let s := decoding .symbol 24 10 100 zeros
  { s with dec := { s.dec with litTree := twoTree 320, distTree := twoTree 64 } }

theorem zero_reader_coherent (mem : Memory) (len base : Word) :
    Reader.Coherent mem { acc := 0, k := 0, rp := 0, len := len, base := base } := by
  simp [Reader.Coherent]

theorem litState_legal : litState.Inv ∧ litState.DstInv ∧ litState.StreamInv ∧ litState.DecodeInv := by
  refine ⟨?_, ?_, ?_, ?_⟩
  · unfold State.Inv Regs.resultsClear; decide
  · show _ ∧ _; unfold State.outputRoom; decide
  · intro _
    exact ⟨by decide, by decide, by decide, zero_reader_coherent _ _ _⟩
  · exact ⟨⟨⟨_, twoCodes_complete.2.2, twoTree_built.2.2⟩, ⟨_, twoCodes_complete.2.1, twoTree_built.2.1⟩⟩,
      ⟨by decide, by decide⟩, by unfold Reader.Clean; decide⟩

/-- A step answers a next state. -/
def goesOn (o : Host.Outcome State Fault Refusal) : Bool :=
  match o with
  | .next _ => true
  | .fault _ => false
  | .refused _ => false

theorem next_of_goesOn {o : Host.Outcome State Fault Refusal} (h : goesOn o = true) : ∃ t, o = .next t := by
  cases o with
  | next t => exact ⟨t, rfl⟩
  | fault f => cases h
  | refused r => cases h

theorem litState_steps : ∃ t, step litState = .next t := next_of_goesOn (by decide)

/-- A state whose next entry is a host action. -/
def acting (s : State) (a : List Input) : State := { s with inputs := a }

/-- The idle machine after reset, with host memory. -/
def idle (mem : Memory) : State := { State.reset with mem := mem }

/-- A reset of a DECOMPRESS, of the idle machine, and of a GET_LENGTH. -/
theorem witness_ResetStepRestoresRegisterBlock :
    (acting litState [.reset]).inputs = [.reset] ∧ (acting litState [.reset]).regs.busy = true ∧
    (acting (idle zeros) [.reset]).inputs = [.reset] ∧ (acting (idle zeros) [.reset]).regs.busy = false ∧
    (let s := acting (running .start 3 0 0 0 0 Memory.unknown) [.reset]
     s.inputs = [.reset] ∧ s.regs.busy = true ∧ s.lat.op ≠ 1 ∧ s.lat.op ≠ 2) := by decide

theorem witness_StepKeepsInv : litState.Inv ∧ ∃ t, step litState = .next t := ⟨litState_legal.1, litState_steps⟩

theorem witness_StepKeepsDstInv : litState.DstInv ∧ ∃ t, step litState = .next t := ⟨litState_legal.2.1, litState_steps⟩

theorem witness_StepKeepsStreamInv :
    litState.Inv ∧ litState.DstInv ∧ litState.StreamInv ∧ ∃ t, step litState = .next t :=
  ⟨litState_legal.1, litState_legal.2.1, litState_legal.2.2.1, litState_steps⟩

theorem witness_StepKeepsDecodeInv : litState.DecodeInv ∧ ∃ t, step litState = .next t :=
  ⟨litState_legal.2.2.2, litState_steps⟩

theorem litState_ticks : ∃ t, step (acting litState [.tick]) = .next t := next_of_goesOn (by decide)

theorem witness_EngineNeverStops :
    (litState.DecodeInv ∧ litState.engineTurn) ∧ (acting litState [.tick]).DecodeInv ∧ (acting litState [.tick]).tickTurn :=
  ⟨⟨litState_legal.2.2.2, .inl rfl⟩, litState_legal.2.2.2, _, rfl⟩

theorem witness_EveryCommandEnds : litState.Inv ∧ litState.DstInv ∧ litState.DecodeInv :=
  ⟨litState_legal.1, litState_legal.2.1, litState_legal.2.2.2⟩

/-- Each clause: a decoder's instruction and one access of it, and the step of a command that writes no destination. -/
theorem witness_EngineWritesOnlyDestination :
    (litState.DstInv ∧ litState.engineTurn ∧ ∃ t, step litState = .next t) ∧
    (let s := acting litState [.tick]
     s.DstInv ∧ s.tickTurn ∧ ∃ t, step s = .next t) ∧
    (let s := running .start 0 0 0 0 0 Memory.unknown
     s.DstInv ∧ s.engineTurn ∧ (∃ t, step s = .next t) ∧ s.phase = .start ∧ s.lat.op ≠ 1 ∧ s.lat.op ≠ 2) :=
  ⟨⟨litState_legal.2.1, .inl rfl, litState_steps⟩, ⟨litState_legal.2.1, ⟨_, rfl⟩, litState_ticks⟩,
    ⟨trivial, .inl rfl, next_of_goesOn (by decide), rfl, by decide, by decide⟩⟩

/-- Each register; and each clause of a refusal, by width, by alignment, and at the first offset past the block. -/
theorem witness_RegisterAccessFollowsContract :
    (∀ offset ∈ [0x00, 0x04, 0x08, 0x0C, 0x10, 0x14, 0x18, 0x1C, 0x20, 0x24, 0x28, 0x2C, 0x30, 0x3C],
      (acting litState [.regRead 32 offset]).inputs = [.regRead 32 offset] ∧ offset % 4 = 0 ∧ offset < 64) ∧
    ∀ p ∈ [(16, 0), (32, 0x3E), (32, 0x40)], (p.1 ≠ 32 ∨ p.2 % 4 ≠ 0 ∨ 64 ≤ p.2) ∧
      (acting litState [.regRead p.1 p.2]).inputs = [.regRead p.1 p.2] ∧
      (acting litState [.regWrite p.1 p.2 1]).inputs = [.regWrite p.1 p.2 1] := by decide

theorem witness_RegisterWriteChangesOnlyItsField :
    ∀ offset ∈ [0x10, 0x14, 0x18, 0x1C, 0x2C, 0x08, 0x00, 0x0C, 0x20, 0x24, 0x28, 0x30, 0x34, 0x38, 0x3C],
      (acting litState [.regWrite 32 offset 5]).inputs = [.regWrite 32 offset 5] := by decide

theorem witness_CommandWriteLatchesAndStarts :
    let s := acting (idle zeros) [.regWrite 32 4 0xC1]
    s.inputs = [.regWrite 32 0x04 0xC1] ∧ s.regs.busy = false := by decide

/-- The first part, and the second for a step that keeps `OVERRUN`, a reset, and a write that clears it. -/
theorem witness_CommandWriteWhileBusyOverruns :
    let o := { litState with regs := { litState.regs with overrun := true } }
    ((acting litState [.regWrite 32 4 2]).inputs = [.regWrite 32 0x04 2] ∧
      (acting litState [.regWrite 32 4 2]).regs.busy = true) ∧
    (o.regs.overrun = true ∧ ∃ t, step o = .next t) ∧
    (∃ t, step (acting o [.reset]) = .next t) ∧ (∃ t, step (acting o [.regWrite 32 8 8]) = .next t) :=
  ⟨⟨rfl, rfl⟩, ⟨rfl, next_of_goesOn (by decide)⟩, next_of_goesOn (by decide), next_of_goesOn (by decide)⟩

theorem witness_OnlyHostOrResetChangesOperands :
    ((∃ t, step litState = .next t) ∧ (∀ rest, litState.inputs ≠ .reset :: rest) ∧
      ∀ w o v rest, litState.inputs ≠ .regWrite w o v :: rest) ∧
    (acting litState [.reset, .regWrite 32 4 2]).inputs = [.reset, .regWrite 32 0x04 2] := by
  refine ⟨⟨litState_steps, ?_, ?_⟩, rfl⟩ <;> simp [litState, decoding, running, State.reset]

/-- A step that goes on with the command, as a whole instruction and as one access of it; one that completes it; one that ends
it with an error. -/
theorem witness_CommandEndsWithOneOutcome :
    let s := running .start 0 0 0 0 0 Memory.unknown
    let u := running .start 6 0 0 0 0 Memory.unknown
    (litState.Inv ∧ litState.regs.busy = true ∧ litState.engineTurn ∧ (∃ t, step litState = .next t) ∧
      (after litState (step litState)).regs.busy = true) ∧
    ((acting litState [.tick]).Inv ∧ (acting litState [.tick]).tickTurn ∧
      ∃ t, step (acting litState [.tick]) = .next t) ∧
    (s.Inv ∧ s.regs.busy = true ∧ s.engineTurn ∧ (∃ t, step s = .next t) ∧ s.tainted = false ∧
      (after s (step s)).regs.busy = false ∧ (after s (step s)).regs.done = true) ∧
    (u.Inv ∧ u.regs.busy = true ∧ u.engineTurn ∧ (∃ t, step u = .next t) ∧ u.tainted = false ∧
      (after u (step u)).regs.busy = false ∧ (after u (step u)).regs.done = false) := by
  refine ⟨⟨litState_legal.1, rfl, .inl rfl, litState_steps, by decide⟩, ⟨litState_legal.1, ⟨_, rfl⟩, litState_ticks⟩,
    ⟨?_, rfl, .inl rfl, next_of_goesOn (by decide), rfl, by decide⟩, ⟨?_, rfl, .inl rfl, next_of_goesOn (by decide), rfl, by decide⟩⟩ <;>
    (unfold State.Inv Regs.resultsClear; decide)

/-- Each clause; the writes are at the last byte of the source range, then at the first of the destination range. -/
theorem witness_HostMemoryAccess :
    ((acting (idle zeros) [.memWrite 7 1, .memRead 7]).inputs = [.memWrite 7 1, .memRead 7] ∧
      (idle zeros).regs.busy = false) ∧
    (∀ k ∈ [0x1017, 0x2000],
      let a : Word := BitVec.ofNat 32 k
      (acting litState [.memWrite a 1]).inputs = [.memWrite a 1] ∧
      litState.regs.busy = true ∧
      ((litState.lat.op ∈ [1, 2, 3, 4] ∧ inRange a litState.lat.src litState.lat.n = true) ∨
        (litState.lat.op ∈ [1, 2] ∧ inRange a litState.lat.dst litState.lat.cap = true))) ∧
    (acting litState [.memRead 0x2000]).inputs = [.memRead 0x2000] := by decide

theorem witness_SpoiledCommandEndLeavesDoneOrErr :
    let s := { running .start 2 0 0 0x2000 100 Memory.unknown with tainted := true }
    s.DstInv ∧ s.tainted = true ∧ s.regs.busy = true ∧ (∃ t, exec .decompress s = .next t) ∧
      (after s (exec .decompress s)).regs.busy = false :=
  ⟨trivial, rfl, rfl, next_of_goesOn (by decide), by decide⟩

theorem witness_NopAndReservedCommandsEndAtOnce :
    (((running .start 0 0 0 0 0 Memory.unknown).phase = .start ∧
      (running .start 0 0 0 0 0 Memory.unknown).tainted = false) ∧
    (let s := acting (idle zeros) [.regWrite 32 4 0x30, .engine]
     s.inputs = [.regWrite 32 0x04 0x30, .engine] ∧ s.regs.busy = false ∧ (0x30 : Word).extractLsb' 0 3 = 0)) ∧
    ∀ p ∈ [(Instr.reservedOp5, (5 : Word)), (.reservedOp6, 6), (.reservedOp7, 7)],
      (p.1 ∈ [Instr.reservedOp5, Instr.reservedOp6, Instr.reservedOp7] ∧
        (running .start (p.2.extractLsb' 0 3) 0 0 0 0 Memory.unknown).phase = .start ∧
        (running .start (p.2.extractLsb' 0 3) 0 0 0 0 Memory.unknown).tainted = false ∧
        (running .start (p.2.extractLsb' 0 3) 0 0 0 0 Memory.unknown).lat.op ≠ 1 ∧
        (running .start (p.2.extractLsb' 0 3) 0 0 0 0 Memory.unknown).lat.op ≠ 2) ∧
      (acting (idle zeros) [.regWrite 32 4 p.2, .engine]).inputs = [.regWrite 32 0x04 p.2, .engine] ∧
      (idle zeros).regs.busy = false ∧ p.2.extractLsb' 0 3 ∈ [(5 : BitVec 3), 6, 7] := by decide

/-- The operands of each clause, at the edges where the checks meet. -/
theorem witness_StartChecksRaiseInOrder :
    let s := fun src n dst cap => running .start 1 src n dst cap Memory.unknown
    let t := decoding .header 4 0 0 Memory.unknown
    ((s 0 4 0x2000 8).tainted = false ∧ (s 0 4 0x2000 8).phase = .start ∧ (s 0 4 0x2000 8).lat.src.toNat = 0) ∧
    ((running .start 3 0 0 0 0 Memory.unknown).lat.op = 3 ∧ (running .start 4 0 0 0 0 Memory.unknown).lat.op = 4) ∧
    ((s 1 0x80000000 0 0).lat.src.toNat ≠ 0 ∧ 2147483647 < (s 1 0x80000000 0 0).lat.n.toNat) ∧
    ((0xFFFFFFF0 : Word).toNat ≠ 0 ∧ (0x11 : Word).toNat ≤ 2147483647 ∧ BadRanges 0xFFFFFFF0 0x11 0x2000 0x15 ∧
      2 ^ 32 < (0xFFFFFFF0 : Word).toNat + (0x11 : Word).toNat) ∧
    (BadRanges 0x1000 0x10 0xFFFFFFF0 0x11 ∧ BadRanges 0x1000 0x10 0x100F 1 ∧ BadRanges 0x1000 0x10 0xFFF 2) ∧
    (¬BadRanges 0xFFFFFFF0 0x10 0x2000 0x13 ∧ 0x13 < 0x10 + 4) ∧
    (¬BadRanges 0x1000 0 0x1000 3 ∧ 3 < 0 + 4) ∧
    (¬BadRanges 0x1000 3 0x2000 0 ∧ 3 < 4) ∧
    (0x1000 + 3 ≤ 2 ^ 32 ∧ (0x1000 : Nat) ≠ 0) ∧
    (t.tainted = false ∧ t.phase = .header ∧ t.lat.cap.toNat < (0xFFFFFF9B : Word).toInt.natAbs ∧
      (0xFFFFFF9B : Word).toInt < 0 ∧ t.lat.cap.toNat < (101 : Word).toInt.natAbs ∧ 0 < (101 : Word).toInt) := by
  unfold BadRanges; exact ⟨by decide, by decide, by decide⟩

/-- Each clause, on the header `00000080` of vector H-10. -/
theorem witness_GetLengthReturnsMagnitude :
    let s := fun src n => running .start 3 src n 0 0 (memAt src.toNat [0, 0, 0, 0x80])
    let w := running .start 3 0xFFFFFFFF 2 0 0 { cells := [(0, 0), (1, 0), (2, 0x80), (0xFFFFFFFF, 0)], unspec := [] }
    (∀ p ∈ [(0, 4), (0x1000, 3), (0x1000, 4), (0xFFFFFFFC, 4)],
      let a : Word := BitVec.ofNat 32 p.1
      let u := s a (BitVec.ofNat 32 p.2)
      u.phase = .start ∧ u.tainted = false ∧ u.lat.op = 3 ∧
      (0x80000000 : Word).toNat = (u.mem.read a).toNat + 2 ^ 8 * (u.mem.read (a + 1)).toNat +
        2 ^ 16 * (u.mem.read (a + 2)).toNat + 2 ^ 24 * (u.mem.read (a + 3)).toNat) ∧
    ((0xFFFFFFFC : Word).toNat + (4 : Word).toNat ≤ 2 ^ 32) ∧
    (w.phase = .start ∧ w.tainted = false ∧ w.lat.op = 3 ∧ w.lat.src ≠ 0 ∧ 2 ^ 32 < w.lat.src.toNat + w.lat.n.toNat ∧
      (0x80000000 : Word).toNat = (w.mem.read w.lat.src).toNat + 2 ^ 8 * (w.mem.read (w.lat.src + 1)).toNat +
        2 ^ 16 * (w.mem.read (w.lat.src + 2)).toNat + 2 ^ 24 * (w.mem.read (w.lat.src + 3)).toNat) := by decide

theorem witness_CompressShortInputStores :
    ∀ n ∈ [0, 3],
      let s := running .start 1 0x1000 (BitVec.ofNat 32 n) 0x2000 (BitVec.ofNat 32 (n + 4)) Memory.unknown
      s.phase = .start ∧ s.tainted = false ∧ s.lat.src ≠ 0 ∧ s.lat.n.toNat < 4 ∧
      ¬BadRanges s.lat.src.toNat s.lat.n.toNat s.lat.dst.toNat s.lat.cap.toNat ∧ s.lat.n.toNat + 4 ≤ s.lat.cap.toNat := by
  unfold BadRanges; decide

theorem witness_CompressCompletes :
    ∀ p ∈ [(0x1000, 4, 0x2000), (0x80000004, 0x7FFFFFFC, 4), (1, 0x7FFFFFFB, 0x7FFFFFFC)],
      let s := running .start 1 (BitVec.ofNat 32 p.1) (BitVec.ofNat 32 p.2.1) (BitVec.ofNat 32 p.2.2)
        (BitVec.ofNat 32 (p.2.1 + 4)) Memory.unknown
      s.phase = .start ∧ s.tainted = false ∧ s.lat.src ≠ 0 ∧ 4 ≤ s.lat.n.toNat ∧ s.lat.n.toNat ≤ 2147483647 ∧
      ¬BadRanges s.lat.src.toNat s.lat.n.toNat s.lat.dst.toNat s.lat.cap.toNat ∧ s.lat.n.toNat + 4 ≤ s.lat.cap.toNat := by
  unfold BadRanges; decide

theorem witness_MeasureCompletes :
    ∀ p ∈ [(0x1000, 3), (0x1000, 4), (0x80000001, 0x7FFFFFFF)],
      let s := running .start 4 (BitVec.ofNat 32 p.1) (BitVec.ofNat 32 p.2) 0 0 Memory.unknown
      s.phase = .start ∧ s.tainted = false ∧ s.lat.src ≠ 0 ∧ s.lat.n.toNat ≤ 2147483647 ∧
      s.lat.src.toNat + s.lat.n.toNat ≤ 2 ^ 32 := by decide

/-- The two sources are at different places; 4 is the first length that is not stored at once. -/
theorem witness_MeasureAgreesWithCompress :
    let s := running .start 1 0x1000 4 0x2000 8 (memAt 0x1000 [1, 2, 3, 4])
    let u := running .start 4 0x3000 4 0 0 (memAt 0x3000 [1, 2, 3, 4])
    s.phase = .start ∧ s.tainted = false ∧ u.phase = .start ∧ u.tainted = false ∧ s.lat.checkCompress = none ∧
    u.lat.checkMeasure = none ∧ u.lat.n = s.lat.n ∧
    (∀ j, j < s.lat.n.toNat →
      u.mem.read (u.lat.src + BitVec.ofNat 32 j) = s.mem.read (s.lat.src + BitVec.ofNat 32 j)) := by decide

theorem witness_CompressIgnoresEarlierState :
    let s := running .start 1 0x1000 4 0x2000 8 (memAt 0x1000 [1, 2, 3, 4])
    let u := { running .start 1 0x3000 4 0x5000 9 (memAt 0x3000 [1, 2, 3, 4]) with cache := { r0 := 3, r1 := 4, r2 := 5 } }
    s.phase = .start ∧ s.tainted = false ∧ u.phase = .start ∧ u.tainted = false ∧ s.lat.checkCompress = none ∧
    u.lat.checkCompress = none ∧ u.lat.n = s.lat.n ∧
    (∀ j, j < s.lat.n.toNat →
      u.mem.read (u.lat.src + BitVec.ofNat 32 j) = s.mem.read (s.lat.src + BitVec.ofNat 32 j)) := by decide

/-- The stored form of the one byte "x", `FFFFFFFF 78`, decompressed elsewhere. -/
theorem witness_CompressedBufferDecompresses :
    let s := running .start 1 0x1000 1 0x2000 5 (memAt 0x1000 [0x78])
    let u := running .start 2 0x3000 5 0x4000 1 (memAt 0x3000 [0xFF, 0xFF, 0xFF, 0xFF, 0x78])
    let t := after s (exec (.compress .fastest) s)
    (s.phase = .start ∧ s.tainted = false ∧ s.lat.checkCompress = none) ∧ u.DecodeInv ∧
    (u.phase = .start ∧ u.tainted = false ∧ u.lat.op = 2 ∧ u.lat.checkDecompress = none ∧ u.lat.n = t.regs.resultLen ∧
      s.lat.n.toNat ≤ u.lat.cap.toNat ∧
      ∀ j, j < t.regs.resultLen.toNat →
        u.mem.read (u.lat.src + BitVec.ofNat 32 j) = t.mem.read (s.lat.dst + BitVec.ofNat 32 j)) :=
  ⟨by decide, ⟨trivial, ⟨by decide, by decide⟩, by unfold Reader.Clean; decide⟩, by decide⟩

theorem witness_DecompressReadsHeaderNext :
    let s := running .start 2 0x1000 4 0x2000 0 Memory.unknown
    s.phase = .start ∧ s.tainted = false ∧ s.lat.src ≠ 0 ∧
    ¬BadRanges s.lat.src.toNat s.lat.n.toNat s.lat.dst.toNat s.lat.cap.toNat ∧ 4 ≤ s.lat.n.toNat := by
  unfold BadRanges; decide

/-- The empty form; a form whose payload is just long enough and whose capacity is just met; one a byte too short. -/
theorem witness_StoredHeaderCopiesPayload :
    (let s := decoding .header 4 0 0 Memory.unknown
     s.phase = .header ∧ s.DstInv ∧ s.tainted = false ∧ (0 : Word).toInt.natAbs ≤ s.lat.cap.toNat ∧
      (0 : Word).toInt.natAbs ≤ s.lat.n.toNat - 4) ∧
    (let s := decoding .header 104 0 0 Memory.unknown
     s.phase = .header ∧ s.DstInv ∧ s.tainted = false ∧ (0xFFFFFF9C : Word).toInt < 0 ∧
      (0xFFFFFF9C : Word).toInt.natAbs ≤ s.lat.cap.toNat ∧ (0xFFFFFF9C : Word).toInt.natAbs ≤ s.lat.n.toNat - 4) ∧
    (let s := decoding .header 103 0 0 Memory.unknown
     s.phase = .header ∧ s.DstInv ∧ s.tainted = false ∧ (0xFFFFFF9C : Word).toInt < 0 ∧
      (0xFFFFFF9C : Word).toInt.natAbs ≤ s.lat.cap.toNat ∧ s.lat.n.toNat - 4 < (0xFFFFFF9C : Word).toInt.natAbs) :=
  ⟨⟨rfl, ⟨rfl, rfl, by decide⟩, rfl, by decide, by decide⟩,
    ⟨rfl, ⟨rfl, rfl, by decide⟩, rfl, by decide, by decide, by decide⟩,
    ⟨rfl, ⟨rfl, rfl, by decide⟩, rfl, by decide, by decide, by decide⟩⟩

theorem witness_HuffmanHeaderStartsBlocks :
    ∀ k ∈ [1, 100],
      let h : Word := BitVec.ofNat 32 k
      let s := decoding .header 4 0 0 Memory.unknown
      0 < h.toInt ∧ s.phase = .header ∧ h.toNat ≤ s.lat.cap.toNat ∧ s.dec.out = 0 := by decide

/-- A decoder at a block, with a payload of `n - 4` bytes. -/
def blockState (n : Word) : State := decoding .block n 0 3 zeros

theorem blockState_ready (n : Word) (h : 4 ≤ n.toNat) : (blockState n).readerReady :=
  ⟨h, rfl, rfl, zero_reader_coherent _ _ _⟩

theorem block_room : (blockState 7).DstInv ∧ (blockState 8).DstInv := by
  show (_ ∧ _) ∧ _ ∧ _
  unfold State.outputRoom; decide

/-- 3 bytes from bit 8 on: one payload word just holds them, none does not. -/
theorem witness_StoredBlockCopiesAlignedBytes :
    (let s := blockState 8
     s.phase = .block ∧ s.DstInv ∧ s.tainted = false ∧ s.readerReady ∧
      alignUp (s.rd.position + 8) + 8 * min (8192 + streamNat s.mem s.rd.base s.rd.position 8)
        (s.dec.m.toNat - s.dec.out.toNat) ≤ s.rd.bits) ∧
    (let s := blockState 7
     s.phase = .block ∧ s.DstInv ∧ s.tainted = false ∧ s.readerReady ∧
      s.rd.bits < alignUp (s.rd.position + 8) + 8 * min (8192 + streamNat s.mem s.rd.base s.rd.position 8)
        (s.dec.m.toNat - s.dec.out.toNat)) :=
  ⟨⟨rfl, block_room.2, rfl, blockState_ready _ (by decide), by decide⟩,
    ⟨rfl, block_room.1, rfl, blockState_ready _ (by decide), by decide⟩⟩

/-- A payload whose first 60 bits are the code-length lengths 1, 1, 0 .. 0. -/
def clState (n : Word) : State :=
  decoding .block n 0 3 (memAt 0x1004 (0x09 :: List.replicate 19 0))

/-- A complete code with its count (12 bytes), an incomplete one (8 bytes), and payloads that end first. -/
theorem witness_CompressedBlockReadsCodeLengthTable :
    let lens := fun s : State => (List.range 20).map (fun t => streamNat s.mem s.rd.base (s.rd.position + 3 * t) 3)
    (∀ n, (clState n).phase = .block ∧ (clState n).tainted = false) ∧
    ((clState 16).rd.position + 66 ≤ (clState 16).rd.bits ∧ kraftOf 7 (lens (clState 16)) = 2 ^ 7) ∧
    ((blockState 12).rd.position + 60 ≤ (blockState 12).rd.bits ∧ kraftOf 7 (lens (blockState 12)) ≠ 2 ^ 7) ∧
    ((clState 8).rd.bits < (clState 8).rd.position + 60) ∧
    ((clState 12).rd.bits < (clState 12).rd.position + 66 ∧ kraftOf 7 (lens (clState 12)) = 2 ^ 7) ∧
    (∀ n, 4 ≤ n.toNat → (clState n).readerReady ∧ (blockState n).readerReady) :=
  ⟨fun _ => ⟨rfl, rfl⟩, by decide, by decide, by decide, by decide,
    fun n h => ⟨⟨h, rfl, rfl, zero_reader_coherent _ _ _⟩, blockState_ready n h⟩⟩

/-- Token, state and index of each clause; the last places where the sequence goes on. -/
theorem witness_CodeLengthTokenExtendsSequence :
    let s := fun j => decoding (.rle .literal 257 j) 24 0 100 Memory.unknown
    (∀ i ∈ [Instr.clLen0, .clLen14], (encode i).fmt = .clsym ∧ (encode i).sym ≤ 14) ∧
    ((s 255).phase = .rle .literal 257 255 ∧ 257 ≤ ((s 255).dec.lensFor .literal).length ∧ 255 + 1 < 257) ∧
    (∀ p ∈ [(Instr.clRep2, 254), (.clRep3_4 1, 252), (.clRep5_8 3, 248), (.clRep9_16 7, 240), (.clRep17_144 127, 112)],
      (encode p.1).fmt = .clsym ∧ 15 ≤ (encode p.1).sym ∧ (s p.2).phase = .rle .literal 257 p.2 ∧
      257 ≤ ((s p.2).dec.lensFor .literal).length ∧ 0 < p.2 ∧
      p.2 + ([2, 3, 5, 9, 17].getD ((encode p.1).sym - 15) 0 + (encode p.1).x) < 257) := by
  decide

/-- No previous length; one length too many. -/
theorem witness_CodeLengthRepeatRejected :
    let s := fun j => decoding (.rle .distance 5 j) 24 0 100 Memory.unknown
    (∀ p ∈ [(Instr.clRep2, 0), (.clRep17_144 0, 0), (.clRep2, 4), (.clRep3_4 0, 3), (.clRep5_8 0, 1), (.clRep9_16 0, 1)],
      (encode p.1).fmt = .clsym ∧ 15 ≤ (encode p.1).sym ∧ (s p.2).phase = .rle .distance 5 p.2 ∧
      (s p.2).tainted = false ∧
      (p.2 = 0 ∨ 5 < p.2 + ([2, 3, 5, 9, 17].getD ((encode p.1).sym - 15) 0 + (encode p.1).x))) := by decide

/-- A decoder before the last length of a sequence, of whose lengths the first is 1 and the others 0. -/
def seqState (q : RleSeq) (count : Nat) (n : Word) : State :=
  let s := decoding (.rle q count (count - 1)) n 0 100 zeros
  { s with dec := { s.dec with lensLit := 1 :: List.replicate 319 0, lensDist := 1 :: List.replicate 63 0 } }

theorem seqState_ready (q : RleSeq) (count : Nat) (n : Word) (h : 4 ≤ n.toNat) : (seqState q count n).readerReady :=
  ⟨h, rfl, rfl, zero_reader_coherent _ _ _⟩

/-- The premises that the clauses share. -/
theorem witness_CodeLengthSequenceEndBuildsTree_premises :
    ∀ p ∈ [(RleSeq.distance, 2, (24 : Word)), (.literal, 257, 24), (.literal, 257, 4)],
      let s := seqState p.1 p.2.1 p.2.2
      (encode .clLen1).fmt = .clsym ∧ s.phase = .rle p.1 p.2.1 (p.2.1 - 1) ∧ s.DstInv ∧ s.tainted = false ∧ s.readerReady ∧
      p.2.1 ≤ (s.dec.lensFor p.1).length ∧ p.2.1 - 1 < p.2.1 ∧
      (∀ a, a < p.2.1 - 1 → ((s.dec.lensFor p.1).getD a 0).toNat ≤ 14) := by
  intro p h
  simp only [List.mem_cons, List.not_mem_nil, or_false] at h
  rcases h with rfl | rfl | rfl
  · exact ⟨rfl, rfl, ⟨rfl, by decide, by decide, by decide⟩, rfl, seqState_ready _ _ _ (by decide), by decide⟩
  · exact ⟨rfl, rfl, ⟨rfl, by decide, by decide, by decide⟩, rfl, seqState_ready _ _ _ (by decide), by decide⟩
  · exact ⟨rfl, rfl, ⟨rfl, by decide, by decide, by decide⟩, rfl, seqState_ready _ _ _ (by decide), by decide⟩

/-- The clauses: an incomplete code; a complete distance code; a complete literal code with its count, and without. -/
theorem witness_CodeLengthSequenceEndBuildsTree :
    let lens := fun (q : RleSeq) (count n : Nat) (v : BitVec 4) =>
      ((seqState q count 24).dec.lensFor q).take (count - 1) ++ List.replicate 1 v ++ List.replicate (n - count) 0
    kraftOf 14 ((lens .distance 2 64 2).map BitVec.toNat) ≠ 2 ^ 14 ∧
    kraftOf 14 ((lens .distance 2 64 1).map BitVec.toNat) = 2 ^ 14 ∧
    kraftOf 14 ((lens .literal 257 320 1).map BitVec.toNat) = 2 ^ 14 ∧
    (seqState .literal 257 24).rd.position + 6 ≤ (seqState .literal 257 24).rd.bits ∧
    (seqState .literal 257 4).rd.bits < (seqState .literal 257 4).rd.position + 6 := by
  decide

theorem witness_LiteralWritesOneByte :
    litState.phase = .symbol ∧ litState.DstInv ∧ litState.tainted = false ∧ litState.dec.bsym.toNat < 8192 :=
  ⟨rfl, litState_legal.2.1, rfl, by decide⟩

theorem witness_LengthTokenSelectsLength :
    ∀ i ∈ [Instr.len0, .len63 16383], (encode i).fmt = .llsym ∧ 256 ≤ (encode i).sym ∧ litState.phase = .symbol := by decide

/-- A decoder at a distance symbol for length 6, with 3 of `m` bytes written and the cache `(3, 0, 0)`. -/
def distState (m : Word) : State :=
  { decoding (.dist 6) 24 3 m zeros with cache := { r0 := 3, r1 := 0, r2 := 0 } }

theorem distState_dst : (distState 9).DstInv := by
  show _ ∧ _
  unfold State.outputRoom; decide

/-- An empty entry, and an entry whose distance and length are just within the output. -/
theorem witness_RepTokenCopiesCachedDistance :
    (∀ i ∈ [Instr.rep1, .rep2], i ∈ [Instr.rep0, Instr.rep1, Instr.rep2] ∧ (distState 9).phase = .dist 6 ∧
      (distState 9).tainted = false ∧
      (if i = .rep0 then (distState 9).cache.r0 else if i = .rep1 then (distState 9).cache.r1
        else (distState 9).cache.r2).toNat = 0) ∧
    ((distState 9).DstInv ∧ 0 < (distState 9).cache.r0.toNat ∧
      (distState 9).cache.r0.toNat ≤ (distState 9).dec.out.toNat ∧
      6 ≤ (distState 9).dec.m.toNat - (distState 9).dec.out.toNat) :=
  ⟨by decide, distState_dst, by decide⟩

theorem witness_FreshDistanceCopies :
    (encode .dist3).fmt = .dsym ∧ 3 ≤ (encode .dist3).sym ∧ (distState 9).phase = .dist 6 ∧ (distState 9).DstInv ∧
    (distState 9).tainted = false ∧
    distBase (encode .dist3).sym + (encode .dist3).x ≤ (distState 9).dec.out.toNat ∧
    6 ≤ (distState 9).dec.m.toNat - (distState 9).dec.out.toNat :=
  ⟨rfl, by decide, rfl, distState_dst, rfl, by decide, by decide⟩

/-- A distance of 4 after 3 bytes; a length of 6 where 5 bytes are left. -/
theorem witness_DistanceTokenRejected :
    (encode .dist4).fmt = .dsym ∧ (distState 8).phase = .dist 6 ∧ (distState 8).tainted = false ∧
    (distState 8).dec.out.toNat < distBase (encode .dist4).sym + (encode .dist4).x ∧
    (distState 8).dec.m.toNat - (distState 8).dec.out.toNat < 6 := by decide

theorem witness_OverlapCopyIsPeriodic :
    0 < 1 ∧ 1 ≤ (decoding .symbol 24 2 100 Memory.unknown).dec.out.toNat ∧
    (decoding .symbol 24 2 100 Memory.unknown).dec.out.toNat + 5 ≤ 2 ^ 32 := by decide

/-- A stream token of each kind is read and decoded: zeros read as block type 0, or as the code of symbol 0. -/
theorem witness_StepRunsDecodedInstruction :
    litState.engineTurn ∧ (idle zeros).phase = .idle ∧ (running .start 0 0 0 0 0 Memory.unknown).phase = .start ∧
    (decoding .header 4 0 0 Memory.unknown).phase = .header ∧
    (∃ b r i, getBits zeros 1 (blockState 24).rd = .ok (b, r) ∧ decodeSym .btype b 0 = .ok i) ∧
    (∃ sym x r1 r2 i, getCode zeros (twoTree 20) litState.rd = .ok (sym, r1) ∧
      getBits zeros (if 15 ≤ sym ∧ 0 = 0 then 0 else extraBits .clsym sym) r1 = .ok (x, r2) ∧
      decodeSym .clsym sym x = .ok i) ∧
    (∃ sym x r1 r2 i, getCode litState.mem litState.dec.litTree litState.rd = .ok (sym, r1) ∧
      getBits litState.mem (extraBits .llsym sym) r1 = .ok (x, r2) ∧ decodeSym .llsym sym x = .ok i) ∧
    (∃ sym x r1 r2 i, getCode litState.mem litState.dec.distTree litState.rd = .ok (sym, r1) ∧
      getBits litState.mem (extraBits .dsym sym) r1 = .ok (x, r2) ∧ decodeSym .dsym sym x = .ok i) :=
  ⟨.inl rfl, rfl, rfl, rfl, ⟨_, _, _, rfl, rfl⟩, ⟨_, _, _, _, _, rfl, rfl, rfl⟩, ⟨_, _, _, _, _, rfl, rfl, rfl⟩,
    ⟨_, _, _, _, _, rfl, rfl, rfl⟩⟩

/-- Commands: one without an access, one that stores at once, one that reads. -/
theorem witness_TicksRunCommand :
    ∀ s ∈ [running .start 0 0 0 0 0 Memory.unknown, running .start 1 0x1000 1 0x2000 5 (memAt 0x1000 [0x78]),
        running .start 3 0x1000 4 0 0 (memAt 0x1000 [1, 0, 0, 0])],
      s.phase = .start ∧ s.tainted = false ∧ s.made = 0 ∧
      goesOn (step { s with inputs := .engine :: s.inputs }) = true := by decide

theorem witness_TicksRunDecoding :
    litState.phase ≠ .start ∧ litState.DstInv ∧ litState.StreamInv ∧ litState.tainted = false ∧ litState.made = 0 ∧
    ∃ t, step { litState with inputs := .engine :: litState.inputs } = .next t :=
  ⟨by decide, litState_legal.2.1, litState_legal.2.2.1, rfl, rfl, next_of_goesOn (by decide)⟩

/-- A decoder at its last stream bit, which is 1. -/
def lastBit (phase : Phase) : State :=
  { decoding phase 8 0 3 (memAt 0x1004 [0, 0, 0, 0x80]) with rd := { acc := 1, k := 1, rp := 4, len := 4, base := 0x1004 } }

theorem lastBit_ready (phase : Phase) : (lastBit phase).readerReady := by
  refine ⟨?_, rfl, ?_, ?_, ?_, ?_, ?_⟩
  · show 4 ≤ (8 : Word).toNat; decide
  · show (4 : Word) = 8 - 4; decide
  · show (4 : Word).toNat % 4 = 0; decide
  · show (1 : BitVec 5).toNat ≤ 8 * (4 : Word).toNat; decide
  · show (4 : Word).toNat ≤ (4 : Word).toNat; decide
  · intro i
    cases i with
    | zero => show (1 : Word).getLsbD 0 = (decide (0 < (1 : BitVec 5).toNat) && streamBit (memAt 0x1004 [0, 0, 0, 0x80]) 0x1004 31); decide
    | succ i =>
      have h : decide (i + 1 < (lastBit phase).rd.k.toNat) = false := by
        show decide (i + 1 < (1 : BitVec 5).toNat) = false
        simp
      rw [h, Bool.false_and]
      show (1#32).getLsbD (i + 1) = false
      rw [BitVec.getLsbD_one]; simp

/-- Every phase that reads the stream, at the end of an empty payload. -/
theorem witness_MissingPayloadWordTruncates_at_end :
    ∀ ph ∈ [Phase.block, .rle .literal 257 0, .symbol, .dist 3],
      let s := decoding ph 7 0 3 zeros
      s.engineTurn ∧ s.tainted = false ∧ s.readerReady ∧ s.rd.position = s.rd.bits ∧
      (s.phase = .block ∨ (∃ q count j, s.phase = .rle q count j) ∨ s.phase = .symbol ∨ ∃ len, s.phase = .dist len) := by
  intro ph h
  refine ⟨.inl rfl, rfl, ⟨?_, rfl, rfl, zero_reader_coherent _ _ _⟩, ?_, ?_⟩
  · show 4 ≤ (7 : Word).toNat; decide
  · show (decoding .block 7 0 3 zeros).rd.position = (decoding .block 7 0 3 zeros).rd.bits; decide
  · simp only [List.mem_cons, List.not_mem_nil, or_false] at h
    rcases h with rfl | rfl | rfl | rfl <;> simp [decoding, running]

/-- A code of 2 bits of which one is left, and a code of 1 bit whose 7 extra bits are missing. -/
theorem witness_MissingPayloadWordTruncates :
    (let s := { lastBit (.rle .literal 257 1) with dec :=
        { Decoder.reset with clTree := (buildTree ([1, 2, 2] ++ List.replicate 17 0) 20 7).getD [] } }
     let lens := [1, 2, 2] ++ List.replicate 17 0
     s.engineTurn ∧ s.tainted = false ∧ s.readerReady ∧ CompleteCode lens 20 7 ∧
     (s.rd.position ≤ s.rd.bits ∧ buildTree lens 20 7 = some s.dec.clTree ∧ 1 < 20 ∧ 0 < lens.getD 1 0 ∧
      (∀ j, j < lens.getD 1 0 → s.rd.position + j < s.rd.bits →
        streamBit s.mem s.rd.base (s.rd.position + j) = ((reversedCodes lens 7).getD 1 0).testBit j) ∧
      s.rd.bits < s.rd.position + lens.getD 1 0 + extraBits .clsym 1)) ∧
    (let s := { lastBit (.rle .literal 257 1) with dec :=
        { Decoder.reset with clTree := (buildTree ([1] ++ List.replicate 18 0 ++ [1]) 20 7).getD [] } }
     let lens := [1] ++ List.replicate 18 0 ++ [1]
     CompleteCode lens 20 7 ∧
     (s.rd.position ≤ s.rd.bits ∧ buildTree lens 20 7 = some s.dec.clTree ∧ 19 < 20 ∧ 0 < lens.getD 19 0 ∧
      (∀ j, j < lens.getD 19 0 → s.rd.position + j < s.rd.bits →
        streamBit s.mem s.rd.base (s.rd.position + j) = ((reversedCodes lens 7).getD 19 0).testBit j) ∧
      s.rd.bits < s.rd.position + lens.getD 19 0 + extraBits .clsym 19)) :=
  ⟨⟨.inl rfl, rfl, lastBit_ready (.rle .literal 257 1), by unfold CompleteCode; decide, by decide⟩,
    ⟨by unfold CompleteCode; decide, by decide⟩⟩

theorem witness_DecodeOfEncode :
    ∀ i ∈ [Instr.hdrStored 0x80000000, .hdrHuffman 1, .clRep17_144 127, .lit 0xFF, .len63 16383, .dist63 131071],
      i.wellFormed = true := by decide

theorem witness_EncodeOfDecode :
    ∀ p ∈ [(Format.hdr, 0x80000000, Instr.hdrStored 0x80000000), (.btype, 1, .compressedBlock),
        (.clsym, 0xFF3, .clRep17_144 127), (.llsym, 0x7FFF3F, .len63 16383), (.dsym, 0x7FFFFF, .dist63 131071)],
      p.1 ≠ .cmdw ∧ decodeWord p.1 p.2.1 = .ok p.2.2 := by decide

theorem witness_SymbolCodesAreBijections :
    ((3 ≤ 3 ∧ 3 ≤ 17010 ∧ 3 ≤ 17010 ∧ 17010 ≤ 17010) ∧ (63 < 64 ∧ 16383 < 2 ^ lenExtra 63)) ∧
    (3 ≤ 3 ∧ 3 ≤ 524288 ∧ 524288 ≤ 524288) ∧ (3 ≤ 63 ∧ 63 < 64 ∧ 131071 < 2 ^ distExtra 63) := by decide

theorem witness_UnmapDistInvertsMapDist :
    Cache.empty.Ok ∧ Cache.Ok { r0 := 3, r1 := 524288, r2 := 4 } ∧ 3 ≤ 3 ∧ 3 ≤ 524288 ∧ 524288 ≤ 524288 := by
  refine ⟨⟨?_, by decide, by decide⟩, ⟨?_, by decide, by decide⟩, by decide⟩
  · rintro r (rfl | rfl | rfl) h <;> exact absurd rfl h
  · rintro r (rfl | rfl | rfl) _ <;> decide

/-- The word that just fits, and the one that does not, in each mode. -/
theorem witness_EmitWordRespectsCapacity :
    4 * ((emptyWork 4 .write).wr.wwords.toNat + 1) ≤ (emptyWork 4 .write).wr.cap.toNat ∧
    (emptyWork 4 .write).wr.mode = .write ∧ (emptyWork 4 .measure).wr.mode = .measure ∧
    (emptyWork 3 .write).wr.cap.toNat < 4 * ((emptyWork 3 .write).wr.wwords.toNat + 1) := by decide

/-- 31 bits stay pending; 32 need a word, which the capacity holds or not. -/
theorem witness_PutBitsAppendsToStream :
    ((emptyWork 3 .write).wr.Clean ∧ (emptyWork 3 .write).wr.mode = .write ∧ 31 ≤ 32 ∧ 0x7FFFFFFF < 2 ^ 31 ∧
      (emptyWork 3 .write).wr.k.toNat + 31 < 32) ∧
    ((emptyWork 4 .write).wr.Clean ∧ 32 ≤ 32 ∧ 0xFFFFFFFF < 2 ^ 32 ∧
      4 * ((emptyWork 4 .write).wr.wwords.toNat + 1) ≤ (emptyWork 4 .write).wr.cap.toNat) ∧
    (32 ≤ (emptyWork 3 .write).wr.k.toNat + 32 ∧
      (emptyWork 3 .write).wr.cap.toNat < 4 * ((emptyWork 3 .write).wr.wwords.toNat + 1)) := by
  unfold Writer.Clean; decide

theorem zero_reader_coherent_w1 : Reader.Coherent (memAt 0x1004 streamW1) (blockState 12).rd := zero_reader_coherent _ _ _

theorem witness_GetBitsReadsStream :
    Reader.Coherent (memAt 0x1004 streamW1) (blockState 12).rd ∧ 32 ≤ 32 ∧
    (blockState 12).rd.position + 32 ≤ (blockState 12).rd.bits ∧
    Reader.Coherent zeros (blockState 7).rd ∧ (blockState 7).rd.bits < (blockState 7).rd.position + 1 :=
  ⟨zero_reader_coherent_w1, by decide, by decide, zero_reader_coherent _ _ _, by decide⟩

/-- "abcabcabcabc" of vector MF-4, after the positions 0 to 2 are inserted: `Find(3)` answers (9, 3). -/
def abcSource : Source := { n := 12, src := fun i => BitVec.ofNat 8 (0x61 + i % 3) }

/-- The match finder after the positions 0 to 2 of `abcSource`. -/
def abcWork : Work := insertPos abcSource 2 (insertPos abcSource 1 (insertPos abcSource 0 State.reset.work))

theorem witness_FindReturnsRealMatch :
    3 < abcSource.n ∧ abcSource.n ≤ 2147483647 ∧ abcWork.mf.linksBelow 3 ∧ (find abcSource 3 abcWork).1 = some (9, 3) ∧
    (9 < abcSource.n ∧ 9 + 3 = abcSource.n) ∧ (10 < abcSource.n ∧ abcSource.n < 10 + 3) := by
  refine ⟨by decide, by decide, ?_, by decide, by decide, by decide⟩
  intro l hl
  revert l hl
  show ∀ l ∈ _, _
  decide

theorem witness_PadLengthsGivesTwoCodes :
    ((List.replicate 20 0).length = 20 ∧ 2 ≤ 20 ∧ 1 ≤ 7 ∧ ∀ s, (List.replicate 20 0).getD s 0 = 0) ∧
    ((List.replicate 19 0 ++ [9]).length = 20 ∧ 19 < 20 ∧ 0 < (List.replicate 19 0 ++ [9]).getD 19 0 ∧
      ∀ s, s ≠ 19 → (List.replicate 19 0 ++ [9]).getD s 0 = 0) ∧
    (([9] ++ List.replicate 19 0).length = 20 ∧ 0 < ([9] ++ List.replicate 19 0).getD 0 0) := by
  refine ⟨⟨by decide, by decide, by decide, ?_⟩, ⟨by decide, by decide, by decide, ?_⟩, by decide, by decide⟩
  · intro s
    by_cases h : s < 20
    · revert s; decide
    · rw [List.getD_eq_getElem?_getD, List.getElem?_eq_none (by simpa using h)]; rfl
  · intro s h
    by_cases h2 : s < 20
    · exact (by decide : ∀ s, s < 20 → s ≠ 19 → (List.replicate 19 0 ++ [9]).getD s 0 = 0) s h2 h
    · rw [List.getD_eq_getElem?_getD, List.getElem?_eq_none (by simpa using h2)]; rfl

theorem witness_BuildLengthsIsCompleteCode :
    ∀ p ∈ [(320, 14), (64, 14), (20, 7)], (List.replicate p.1 1).length = p.1 ∧ 0 < (List.replicate p.1 1).getD 0 0 := by
  decide

theorem witness_UnRleInvertsRle :
    (∀ v ∈ [14, 0, 0, 0], v ≤ 14) ∧ [14, 0, 0, 0].length ≤ (List.replicate 4 (0 : BitVec 4)).length := by decide

/-- The stream bit 0 is the code of symbol 0, in a payload of one word. -/
theorem witness_TreeWalkDecodesEveryCode :
    CompleteCode (twoCodes 64) 64 14 ∧ 0 < 64 ∧ 0 < (twoCodes 64).getD 0 0 ∧ Reader.Coherent zeros (blockState 8).rd ∧
    (blockState 8).rd.position + (twoCodes 64).getD 0 0 ≤ (blockState 8).rd.bits ∧
    (∀ j, j < (twoCodes 64).getD 0 0 →
      streamBit zeros (blockState 8).rd.base ((blockState 8).rd.position + j) =
        ((reversedCodes (twoCodes 64) 14).getD 0 0).testBit j) :=
  ⟨twoCodes_complete.2.1, by decide, by decide, zero_reader_coherent _ _ _, by decide, by
    decide⟩

/-- Whether a block was written. -/
def wrote (r : Run) : Bool :=
  match r with
  | .ok _ => true
  | .noSpace _ => false

theorem ok_of_wrote {r : Run} (h : wrote r = true) : ∃ w, r = .ok w := by
  cases r with
  | ok w => exact ⟨w, rfl⟩
  | noSpace w => cases h

theorem tableNat_replicate_zero (k n s : Nat) : tableNat (List.replicate k (0 : BitVec n)) s = 0 := by
  unfold tableNat
  by_cases h : s < k
  · simp [List.getD_eq_getElem?_getD, h]
  · simp [List.getD_eq_getElem?_getD, Nat.le_of_not_lt h]

/-- A block of no symbols, in a writer with room for both forms. -/
theorem witness_BlockCostsAreExact :
    (emptyWork 64 .measure).counted ∧ (∃ w, emitCompressed (emptyWork 64 .measure) = .ok w) ∧
    ∃ w, emitStored abcSource (emptyWork 64 .measure) = .ok w :=
  ⟨⟨fun s => tableNat_replicate_zero 320 14 s, fun c => tableNat_replicate_zero 64 14 c, by decide⟩,
    ok_of_wrote (by decide), ok_of_wrote (by decide)⟩

end Sys2Proof.Tests
end

/-! SUPPORT. The one list of what a step that answers can be: the engine's instruction, one access of it, or a host action
(10_state.md R100, 70_reset_and_hazards.md R956, R958). Every statement about all steps is a case split on it. -/

namespace Sys2Proof.Proofs

open Sys2Proof Sys2Proof.Machine Sys2Proof.Laws

theorem hostRegRead_next {w o : Nat} {s t : State} (h : hostRegRead w o s = .next t) :
    regAccessDefined w o = true ∧ t = { s with hostData := s.regs.readAt o } := by
  unfold hostRegRead at h
  split at h
  · rename_i hd; cases h; exact ⟨hd, rfl⟩
  · cases h

theorem hostRegWrite_next {w o : Nat} {v : Word} {s t : State} (h : hostRegWrite w o v s = .next t) :
    regAccessDefined w o = true ∧
      ((o = 0x04 ∧ t = s.writeCmd v) ∨ (o ≠ 0x04 ∧ t = { s with regs := s.regs.writeAt o v })) := by
  unfold hostRegWrite at h
  split at h
  · rename_i hd
    refine ⟨hd, ?_⟩
    split at h
    · rename_i ho; cases h; exact .inl ⟨ho, rfl⟩
    · rename_i ho; cases h; exact .inr ⟨ho, rfl⟩
  · cases h

theorem hostMemRead_next {a : Word} {s t : State} (h : hostMemRead a s = .next t) :
    ∃ v fresh, t = { s with hostData := v, fresh := fresh } := by
  unfold hostMemRead at h
  split at h <;> (cases h; exact ⟨_, _, rfl⟩)

/-- What the next state of a step can be, by who acts. -/
inductive StepOf (s : State) : State → Prop
  | engine {t : State} (turn : s.engineTurn ∨ s.tickTurn) (h : engineStep s.taken = .next t) : StepOf s t
  | access {a : Access} (turn : s.tickTurn) (h : a ∈ accesses s.entryTaken) :
      StepOf s { s.entryTaken with mem := a.onMemory s.mem, made := s.made + 1 }
  | reset {rest : List Input} (h : s.inputs = .reset :: rest) : StepOf s s.entryTaken.resetNow
  | regRead {w o : Nat} {rest : List Input} (h : s.inputs = .regRead w o :: rest) :
      StepOf s { s.entryTaken with hostData := s.regs.readAt o }
  | cmdWrite {w : Nat} {v : Word} {rest : List Input} (h : s.inputs = .regWrite w 0x04 v :: rest) :
      StepOf s (s.entryTaken.writeCmd v)
  | regWrite {w o : Nat} {v : Word} {rest : List Input} (h : s.inputs = .regWrite w o v :: rest) (ho : o ≠ 0x04) :
      StepOf s { s.entryTaken with regs := s.regs.writeAt o v }
  | memRead {a : Word} {rest : List Input} (h : s.inputs = .memRead a :: rest) (v : Word) (fresh : Nat) :
      StepOf s { s.entryTaken with hostData := v, fresh := fresh }
  | memWrite {a : Word} {v : Byte} {rest : List Input} (h : s.inputs = .memWrite a v :: rest) :
      StepOf s { s.entryTaken with
        mem := s.mem.write a v, tainted := s.tainted || s.inBusySrc a || s.inBusyDst a }

theorem stepOf_tick {s t : State} (ht : s.tickTurn) (h : step s = .next t) : StepOf s t := by
  rcases step_of_tickTurn ht with ⟨a, ha, _, hs⟩ | ⟨_, hs⟩
  · rw [hs] at h; cases h; exact .access ht ha
  · exact .engine (.inr ht) (hs.symm.trans h)

theorem entryTaken_of_inputs {s : State} {a : Input} {rest : List Input} (h : s.inputs = a :: rest) :
    { s with inputs := rest } = s.entryTaken := by
  simp [State.entryTaken, h]

theorem step_next_cases {s t : State} (h : step s = .next t) : StepOf s t := by
  cases hi : s.inputs with
  | nil => exact .engine (.inl (.inl hi)) ((step_of_engineTurn (.inl hi)).symm.trans h)
  | cons a rest =>
    have he := entryTaken_of_inputs hi
    cases a with
    | engine => exact .engine (.inl (.inr ⟨rest, hi⟩)) ((step_of_engineTurn (.inr ⟨rest, hi⟩)).symm.trans h)
    | tick => exact stepOf_tick ⟨rest, hi⟩ h
    | reset =>
      simp only [step, hi, he, hostReset] at h
      cases h; exact .reset hi
    | regRead w o =>
      simp only [step, hi, he] at h
      obtain ⟨_, rfl⟩ := hostRegRead_next h
      exact .regRead hi
    | regWrite w o v =>
      simp only [step, hi, he] at h
      obtain ⟨_, ⟨rfl, rfl⟩ | ⟨ho, rfl⟩⟩ := hostRegWrite_next h
      · exact .cmdWrite hi
      · exact .regWrite hi ho
    | memRead a =>
      simp only [step, hi, he] at h
      obtain ⟨v, fresh, rfl⟩ := hostMemRead_next h
      exact .memRead hi v fresh
    | memWrite a v =>
      have hs : step s = hostMemWrite a v s.entryTaken := by simp only [step, hi, he]
      rw [hs] at h
      cases h; exact .memWrite hi

end Sys2Proof.Proofs

/-! SUPPORT. What the work of an instruction keeps until it ends, and the three ways in which it ends: it goes on to another
decoder state, it raises an error (60_exceptions.md R904), or it completes the command (49_host_commands.md R813). -/

namespace Sys2Proof.Proofs

open Sys2Proof Sys2Proof.Machine Sys2Proof.Laws

/-! Bytes of an unwrapped range. -/

/-- Byte `i` from `b` on lies in `[a, a + len)`, where `b` is `off` bytes into it. -/
theorem inRange_within {a len b off : Word} {i : Nat} (hw : a.toNat + len.toNat ≤ 2 ^ 32) (hb : b = a + off)
    (hi : off.toNat + i < len.toNat) : inRange (b + BitVec.ofNat 32 i) a len = true := by
  have e : b + BitVec.ofNat 32 i = a + BitVec.ofNat 32 (off.toNat + i) := by
    rw [hb, BitVec.add_assoc, BitVec.ofNat_add, BitVec.ofNat_toNat, BitVec.setWidth_eq]
  rw [e]; exact inRange_of_offset hw hi

/-- Bytes written within the range change nothing outside it. -/
theorem sameOutside_within {m m' : Memory} {a len b off : Word} {k : Nat} (h : SameExcept m m' b k)
    (hw : a.toNat + len.toNat ≤ 2 ^ 32) (hb : b = a + off) (hk : off.toNat + k ≤ len.toNat) :
    SameOutside m m' a len := by
  intro x hx
  refine h x (fun j hj e => ?_)
  have hin := inRange_within (i := j) hw hb (by omega)
  rw [← e, hx] at hin; cases hin

theorem write_sameExcept (m : Memory) (b : Word) (v : Byte) : SameExcept m (m.write b v) b 1 :=
  fun _ hx => read_write_other m v (by simpa using hx 0 Nat.one_pos)

theorem writeWord_sameExcept (m : Memory) (b w : Word) : SameExcept m (m.writeWord b w) b 4 :=
  fun x hx => read_writeWord_other m b x w hx

theorem copyForward_sameExcept (dst src : Word) (k : Nat) (m : Memory) :
    SameExcept m (Memory.copyForward dst src k 0 m) dst k :=
  fun x hx => read_copyForward_other dst src k 0 m x (fun j _ hj => hx j (by omega))

theorem storedBytes_sameExcept {dst : Word} {k : Nat} {m m' : Memory} {r r' : Reader}
    (h : storedBytes dst k 0 m r = .ok (m', r')) : SameExcept m m' dst k :=
  fun x hx => read_storedBytes_other dst k 0 x h (fun j _ hj => hx j (by omega))

/-! The start checks (49_host_commands.md R801) and the destination. -/

theorem dst_unwrapped {l : Latched} (h : l.rangesBad = false) : l.dst.toNat + l.cap.toNat ≤ 2 ^ 32 := by
  simp only [Latched.rangesBad, Bool.or_eq_false_iff, rangeWraps, decide_eq_false_iff_not] at h
  omega

theorem checkCompress_none {l : Latched} (h : l.checkCompress = none) :
    l.rangesBad = false ∧ l.n.toNat + 4 ≤ l.cap.toNat := by
  unfold Latched.checkCompress at h
  split_ifs at h with _ _ hr hc
  exact ⟨by simpa using hr, by omega⟩

/-! The Huffman attempt of COMPRESS and MEASURE (49_host_commands.md R802, R808). -/

theorem attempt_words_le (s : State) (l : Level) (mode : WMode) :
    4 * (s.attempt l mode).work.wr.words.toNat ≤ s.lat.n.toNat :=
  (attempt_emits s l mode).bound (Nat.zero_le _)

theorem attempt_wf (s : State) (l : Level) (mode : WMode) (h : s.mem.wf = true) :
    (s.attempt l mode).work.mem.wf = true :=
  (attempt_emits s l mode).wf h

theorem attempt_measure_mem (s : State) (l : Level) : (s.attempt l .measure).work.mem = s.mem :=
  (attempt_emits s l .measure).quiet rfl

/-- The attempt's bytes lie behind the header, within the source's length. -/
theorem attempt_sameExcept (s : State) (l : Level) (mode : WMode) :
    SameExcept s.mem (s.attempt l mode).work.mem (s.lat.dst + 4) s.lat.n.toNat := by
  have hle := attempt_words_le s l mode
  exact fun x hx => (attempt_emits s l mode).frame x (fun j _ hj => hx j (by omega))

/-! What is kept. -/

/-- What the work of an instruction keeps before it ends: the register block, the latched operands, the canonical form of
host memory, and the bytes outside the destination (20_memory.md R206). -/
structure WorkKeeps (s u : State) : Prop where
  regs : u.regs = s.regs
  lat : u.lat = s.lat
  wf : s.mem.wf = true → u.mem.wf = true
  outside : s.DstInv → SameOutside s.mem u.mem s.lat.dst s.lat.cap

theorem WorkKeeps.refl (s : State) : WorkKeeps s s := ⟨rfl, rfl, id, fun _ => sameOutside_refl _ _ _⟩

/-- Work that goes on with writes inside the destination. -/
theorem WorkKeeps.write {s u v : State} (h : WorkKeeps s u) (hr : v.regs = u.regs) (hl : v.lat = u.lat)
    (hw : u.mem.wf = true → v.mem.wf = true) (ho : s.DstInv → SameOutside u.mem v.mem s.lat.dst s.lat.cap) :
    WorkKeeps s v :=
  ⟨hr.trans h.regs, hl.trans h.lat, fun hs => hw (h.wf hs), fun hd => SameOutside.trans (h.outside hd) (ho hd)⟩

/-- Work that touches only the engine's units. -/
theorem WorkKeeps.of_units {s u : State} (hr : u.regs = s.regs) (hl : u.lat = s.lat) (hm : u.mem = s.mem) :
    WorkKeeps s u :=
  ⟨hr, hl, fun h => by rw [hm]; exact h, fun _ => by rw [hm]; exact sameOutside_refl _ _ _⟩

/-- `StoredForm()` (49_host_commands.md R802) after other work of a COMPRESS that passed its start checks. -/
theorem WorkKeeps.storedForm {s u : State} (h : WorkKeeps s u) (hc : s.lat.checkCompress = none) :
    WorkKeeps s u.storedForm := by
  obtain ⟨hbad, hcap⟩ := checkCompress_none hc
  have hw := dst_unwrapped hbad
  refine h.write rfl rfl wf_storedForm (fun _ => ?_)
  have header : SameOutside u.mem (u.mem.writeWord u.lat.dst (-u.lat.n)) s.lat.dst s.lat.cap :=
    sameOutside_within (off := 0) (writeWord_sameExcept _ _ _) hw (by simp [h.lat]) (by simp; omega)
  have bytes := sameOutside_within (off := 4)
    (copyForward_sameExcept (u.lat.dst + 4) u.lat.src u.lat.n.toNat (u.mem.writeWord u.lat.dst (-u.lat.n)))
    hw (by rw [h.lat]) (by rw [h.lat]; simp; omega)
  exact SameOutside.trans header bytes

/-- The Huffman attempt of a COMPRESS that passed its start checks. -/
theorem WorkKeeps.attempt {s : State} (l : Level) (hc : s.lat.checkCompress = none) :
    WorkKeeps s (s.withWork (s.attempt l .write).work) := by
  obtain ⟨hbad, hcap⟩ := checkCompress_none hc
  exact ⟨rfl, rfl, attempt_wf s l .write, fun _ => sameOutside_within (off := 4) (attempt_sameExcept s l .write)
    (dst_unwrapped hbad) rfl (by simp; omega)⟩

/-! How an instruction ends. -/

/-- The state in which an instruction that starts in `s` leaves the machine. -/
inductive InstrEnd (s : State) : State → Prop
  | goesOn {u : State} (h : WorkKeeps s u) (hp : u.phase ≠ .idle) : InstrEnd s u
  | raised {u : State} (h : WorkKeeps s u) (e : ErrCode) (info : Word) : InstrEnd s (u.raiseError e info)
  | completed {u : State} (h : WorkKeeps s u) (len : Word) (form fallback : Bool) :
      InstrEnd s (u.complete len form fallback)

theorem InstrEnd.blockLoop {s u : State} (h : WorkKeeps s u) : InstrEnd s u.blockLoop := by
  rcases blockLoop_cases u with ⟨_, e⟩ | ⟨_, e⟩
  · rw [e]; exact .goesOn ⟨h.regs, h.lat, h.wf, h.outside⟩ (by simp)
  · rw [e]; exact .completed h _ _ _

theorem InstrEnd.symbolLoop {s u : State} (h : WorkKeeps s u) : InstrEnd s u.symbolLoop := by
  rcases symbolLoop_cases u with ⟨_, _, e⟩ | ⟨_, e⟩
  · rw [e]; exact .goesOn ⟨h.regs, h.lat, h.wf, h.outside⟩ (by simp)
  · rw [e]; exact .blockLoop h

theorem compressWork_end (s : State) (l : Level) : InstrEnd s (s.compressWork l) := by
  rcases compressWork_cases s l with ⟨e, _, h⟩ | ⟨hc, _, h⟩ | ⟨w, hc, _, hw, h⟩ | ⟨w, hc, _, hw, h⟩
  · rw [h]; exact .raised (.refl s) e 0
  · rw [h]; exact .completed ((WorkKeeps.refl s).storedForm hc) _ _ _
  · have hk := WorkKeeps.attempt l hc
    rw [hw] at hk
    obtain ⟨hbad, hcap⟩ := checkCompress_none hc
    rw [h]
    refine .completed ?_ _ _ _
    refine hk.write rfl rfl (wf_writeWord (m := w.mem) _ _) (fun _ => ?_)
    exact sameOutside_within (off := 0) (writeWord_sameExcept _ _ _) (dst_unwrapped hbad) (by simp) (by simp; omega)
  · have hk := WorkKeeps.attempt l hc
    rw [hw] at hk
    rw [h]; exact .completed (hk.storedForm hc) _ _ _

theorem measureWork_end (s : State) (l : Level) : InstrEnd s (s.measureWork l) := by
  have hm := attempt_measure_mem s l
  rcases measureWork_cases s l with ⟨e, _, h⟩ | ⟨_, _, h⟩ | ⟨w, _, _, hw, h⟩ | ⟨w, _, _, hw, h⟩
  · rw [h]; exact .raised (.refl s) e 0
  · rw [h]; exact .completed (.refl s) _ _ _
  · rw [hw] at hm
    have hk : WorkKeeps s (s.withWork w) := .of_units rfl rfl hm
    rw [h]; exact .completed hk _ _ _
  · rw [hw] at hm
    have hk : WorkKeeps s (s.withWork w) := .of_units rfl rfl hm
    rw [h]; exact .completed hk _ _ _

theorem getLengthWork_end (s : State) : InstrEnd s s.getLengthWork := by
  rcases getLengthWork_cases s with ⟨e, _, h⟩ | ⟨_, h⟩
  · rw [h]; exact .raised (.refl s) e 0
  · rw [h]; exact .completed (.refl s) _ _ _

theorem decompressWork_end (s : State) : InstrEnd s s.decompressWork := by
  rcases decompressWork_cases s with ⟨e, _, h⟩ | ⟨_, h⟩
  · rw [h]; exact .raised (.refl s) e 0
  · rw [h]; exact .goesOn (.of_units rfl rfl rfl) (by simp)

theorem commandWork_end {i : Instr} {s t : State} (h : CommandWork i s t) : InstrEnd s t := by
  rcases h with ⟨_, rfl⟩ | ⟨l, _, rfl⟩ | ⟨_, rfl⟩ | ⟨_, rfl⟩ | ⟨l, _, rfl⟩ | ⟨_, rfl⟩
  · exact .completed (.refl s) _ _ _
  · exact compressWork_end s l
  · exact decompressWork_end s
  · exact getLengthWork_end s
  · exact measureWork_end s l
  · exact .raised (.refl s) _ _

/-! The decoder's instructions. -/

theorem rangesBad_of_header {s : State} (h : s.DstInv) (hp : s.phase = .header) : s.lat.rangesBad = false := by
  simp only [State.DstInv, hp] at h
  exact h.2.1

/-- Between the header and the end of the output the next byte has room (20_memory.md R206). -/
theorem outputRoom_of_phase {s : State} (h : s.DstInv)
    (hp : s.phase = .block ∨ (∃ q c j, s.phase = .rle q c j) ∨ s.phase = .symbol ∨ ∃ len, s.phase = .dist len) :
    s.outputRoom := by
  rcases hp with hp | ⟨q, c, j, hp⟩ | hp | ⟨len, hp⟩ <;>
    (simp only [State.DstInv, hp] at h; exact h.2)

/-- Writing up to `k` bytes at the output position, where `k` bytes are still to come. -/
theorem outputRoom_sameOutside {s : State} {m' : Memory} {k : Nat} (h : s.outputRoom)
    (hs : SameExcept s.mem m' (s.lat.dst + s.dec.out) k) (hk : k ≤ s.dec.m.toNat - s.dec.out.toNat) :
    SameOutside s.mem m' s.lat.dst s.lat.cap := by
  obtain ⟨hbad, hcap, hout⟩ := h
  exact sameOutside_within hs (dst_unwrapped hbad) rfl (by omega)

theorem storedCount_le (e m out : Nat) : storedCount e m out ≤ m - out := Nat.min_le_right _ _

theorem storedHeader_end {s : State} (hp : s.phase = .header) (w : Word) : InstrEnd s (s.storedHeader w) := by
  rcases storedHeader_cases s w with ⟨_, h⟩ | ⟨_, _, h⟩ | ⟨hcap, _, h⟩
  · rw [h]; exact .raised (.refl s) _ _
  · rw [h]
    refine .raised ?_ _ _
    exact .of_units rfl rfl rfl
  · rw [h]
    refine .completed ?_ _ _ _
    refine ⟨rfl, rfl, fun hm => wf_copyForward _ _ _ _ hm, fun hd => ?_⟩
    exact sameOutside_within (off := 0) (copyForward_sameExcept _ _ _ _) (dst_unwrapped (rangesBad_of_header hd hp))
      (by simp) (by simpa using hcap)

theorem huffmanHeader_end (s : State) (w : Word) : InstrEnd s (s.huffmanHeader w) := by
  rcases huffmanHeader_cases s w with ⟨_, h⟩ | ⟨_, h⟩
  · rw [h]; exact .raised (.refl s) _ _
  · rw [h]; exact .blockLoop (.of_units rfl rfl rfl)

theorem storedBlockWork_end {s t : State} (hp : s.phase = .block) (h : s.storedBlockWork = .next t) :
    InstrEnd s t := by
  rcases storedBlockWork_next h with ⟨c, info, rfl⟩ | ⟨e, r1, r2, mem, r3, _, _, hb, rfl⟩
  · exact .raised (.refl s) c info
  · refine .blockLoop ⟨rfl, rfl, wf_storedBytes _ _ _ hb, fun hd => ?_⟩
    exact outputRoom_sameOutside (outputRoom_of_phase hd (.inl hp)) (storedBytes_sameExcept hb) (storedCount_le _ _ _)

theorem compressedBlockWork_end {s t : State} (h : s.compressedBlockWork = .next t) : InstrEnd s t := by
  rcases compressedBlockWork_next h with ⟨c, info, rfl⟩ | ⟨lens, r1, tree, f, r2, _, _, _, rfl⟩
  · exact .raised (.refl s) c info
  · exact .goesOn (.of_units rfl rfl rfl) (by simp)

theorem codeLength_end {s t : State} {q : RleSeq} {c j sym x : Nat} (hp : s.phase = .rle q c j)
    (h : s.codeLength sym x = .next t) : InstrEnd s t := by
  rcases codeLength_next hp h with ⟨u, e, info, rfl, hu⟩ |
    ⟨lens, k, _, ⟨_, rfl⟩ | ⟨_, _, tree, f, r, _, _, rfl⟩ | ⟨_, _, tree, _, rfl⟩⟩
  · exact .raised (.of_units (by rw [hu]) (by rw [hu]) (by rw [hu])) e info
  · exact .goesOn (.of_units rfl rfl rfl) (by simp)
  · exact .goesOn (.of_units rfl rfl rfl) (by simp)
  · exact .symbolLoop (.of_units rfl rfl rfl)

theorem literal_end {s : State} (hp : s.phase = .symbol) (b : Byte) :
    InstrEnd s ({ s with dec := { s.dec with bsym := s.dec.bsym + 1 } }.literal b) := by
  refine .symbolLoop ⟨rfl, rfl, wf_write _ _, fun hd => ?_⟩
  have room := outputRoom_of_phase hd (.inr (.inr (.inl hp)))
  have hout := room.2.2
  exact outputRoom_sameOutside room (write_sameExcept _ _ _) (by omega)

theorem distanceWork_end {s : State} {len : Nat} (hp : s.phase = .dist len) (c x : Nat) :
    InstrEnd s (s.distanceWork len c x) := by
  rcases distanceWork_cases s len c x with ⟨info, u, h, hu, _⟩ | ⟨d, cache, _, _, hlen, h⟩
  · rw [h]; exact .raised (.of_units (by rw [hu]) (by rw [hu]) (by rw [hu])) _ _
  · rw [h]
    refine .symbolLoop ⟨rfl, rfl, fun hm => wf_copyMatch (s := { s with cache := cache }) hm len d, fun hd => ?_⟩
    exact outputRoom_sameOutside (outputRoom_of_phase hd (.inr (.inr (.inr ⟨len, hp⟩)))) (copyForward_sameExcept _ _ _ _) hlen

/-- Every instruction that answers ends in one of the three ways. -/
theorem exec_end {i : Instr} {s t : State} (h : exec i s = .next t) : InstrEnd s t := by
  rcases exec_next_cases h with ⟨_, hw⟩ | ⟨hp, ⟨w, rfl⟩ | ⟨w, rfl⟩⟩ | ⟨hp, hw | hw⟩ | ⟨⟨q, c, j, hp⟩, sym, x, hw⟩ |
    ⟨hp, ⟨b, rfl⟩ | ⟨n, rfl⟩⟩ | ⟨len, hp, c, x, rfl⟩
  · exact commandWork_end hw
  · exact storedHeader_end hp w
  · exact huffmanHeader_end s w
  · exact storedBlockWork_end hp hw
  · exact compressedBlockWork_end hw
  · exact codeLength_end hp hw
  · exact literal_end hp b
  · exact .goesOn (.of_units rfl rfl rfl) (by simp)
  · exact distanceWork_end hp c x

/-- The bits that a fetch consumes are the reader's alone. -/
theorem WorkKeeps.of_fetch {s u : State} {r : Reader} (h : WorkKeeps { s with rd := r } u) : WorkKeeps s u :=
  ⟨h.regs, h.lat, h.wf, h.outside⟩

theorem InstrEnd.of_fetch {s t : State} {r : Reader} (h : InstrEnd { s with rd := r } t) : InstrEnd s t := by
  cases h with
  | goesOn h hp => exact .goesOn h.of_fetch hp
  | raised h e info => exact .raised h.of_fetch e info
  | completed h len a b => exact .completed h.of_fetch len a b

/-- The engine waits, or its instruction ends in one of the three ways. -/
theorem engineStep_end {s t : State} (h : engineStep s = .next t) :
    (s.phase = .idle ∧ t = s) ∨ (s.phase ≠ .idle ∧ InstrEnd s t) := by
  rcases engineStep_cases h with h | ⟨i, hp, _, he⟩ | ⟨i, hp, _, he⟩ | ⟨i, r, hp, _, he⟩ | ⟨q, c, j, i, r, hp, _, he⟩ |
    ⟨i, r, hp, _, he⟩ | ⟨len, i, r, hp, _, he⟩ | ⟨e, info, hp, _, _, rfl⟩
  · exact .inl h
  · exact .inr ⟨by simp [hp], exec_end he⟩
  · exact .inr ⟨by simp [hp], exec_end he⟩
  · exact .inr ⟨by simp [hp], (exec_end he).of_fetch⟩
  · exact .inr ⟨by simp [hp], (exec_end he).of_fetch⟩
  · exact .inr ⟨by simp [hp], (exec_end he).of_fetch⟩
  · exact .inr ⟨by simp [hp], (exec_end he).of_fetch⟩
  · exact .inr ⟨hp, .raised (.refl s) e info⟩

end Sys2Proof.Proofs

/-! PROOFS. The register block as the host sees it: reads, refused accesses, and writes that start nothing (10_state.md R104
to R117, 49_host_commands.md R814); and the state after reset. -/

namespace Sys2Proof.Proofs

open Sys2Proof Sys2Proof.Machine Sys2Proof.Laws

/-! The packed registers as numbers. -/

theorem cmdWord_toNat (r : Regs) : r.cmdWord.toNat = r.cmdOp.toNat + 16 * r.cmdLevel.toNat := by
  have packed : ∀ (op : BitVec 3) (level : BitVec 2),
      (op.zeroExtend 32 ||| (level.zeroExtend 32 <<< 4)).toNat = op.toNat + 16 * level.toNat := by decide
  exact packed r.cmdOp r.cmdLevel

theorem statusWord_toNat (r : Regs) :
    r.statusWord.toNat = r.busy.toNat + 2 * r.done.toNat + 4 * r.err.toNat + 8 * r.overrun.toNat := by
  have packed : ∀ a b c d : Bool, (bitWord a 0 ||| bitWord b 1 ||| bitWord c 2 ||| bitWord d 3).toNat =
      a.toNat + 2 * b.toNat + 4 * c.toNat + 8 * d.toNat := by decide
  exact packed r.busy r.done r.err r.overrun

theorem twoBits_toNat : ∀ a b : Bool, (bitWord a 0 ||| bitWord b 1).toNat = a.toNat + 2 * b.toNat := by decide

theorem resultInfoWord_toNat (r : Regs) : r.resultInfoWord.toNat = r.form.toNat + 2 * r.fallback.toNat :=
  twoBits_toNat _ _

theorem irqEnWord_toNat (r : Regs) : r.irqEnWord.toNat = r.doneIe.toNat + 2 * r.errIe.toNat := twoBits_toNat _ _

theorem errcodeWord_toNat (r : Regs) : (r.errcode.zeroExtend 32).toNat = r.errcode.toNat :=
  BitVec.toNat_setWidth_of_le (by omega)

/-- The reserved offsets read 0 (R104, R117). -/
theorem readAt_reserved (r : Regs) {offset : Nat} (h : 0x30 ≤ offset) : r.readAt offset = 0 := by
  have hne : ∀ k, k < 0x30 → offset ≠ k := fun k hk => by omega
  simp only [Regs.readAt, hne _, Nat.reduceLT, if_false]

/-! Accesses. -/

theorem regAccessDefined_iff (width offset : Nat) :
    regAccessDefined width offset = true ↔ width = 32 ∧ offset % 4 = 0 ∧ offset < 64 := by
  simp [regAccessDefined]

/-- An aligned 32-bit read answers the register (R104). -/
theorem step_regRead {s : State} {rest : List Input} {offset : Nat} (h : s.inputs = .regRead 32 offset :: rest)
    (ha : offset % 4 = 0) (hl : offset < 64) :
    step s = .next { s with inputs := rest, hostData := s.regs.readAt offset } := by
  simp only [step, h, hostRegRead, (regAccessDefined_iff 32 offset).mpr ⟨rfl, ha, hl⟩, if_true]

/-- An aligned 32-bit write to a register other than `CMD` (R104). -/
theorem step_regWrite {s : State} {rest : List Input} {offset : Nat} {v : Word}
    (h : s.inputs = .regWrite 32 offset v :: rest) (ha : offset % 4 = 0) (hl : offset < 64) (hc : offset ≠ 0x04) :
    step s = .next { s with inputs := rest, regs := s.regs.writeAt offset v } := by
  simp only [step, h, hostRegWrite, (regAccessDefined_iff 32 offset).mpr ⟨rfl, ha, hl⟩, if_true, if_neg hc]

/-- Any other access is refused (R104, V5). -/
theorem step_regAccess_refused {s : State} {rest : List Input} {width offset : Nat}
    (hd : width ≠ 32 ∨ offset % 4 ≠ 0 ∨ 64 ≤ offset) :
    (s.inputs = .regRead width offset :: rest → step s = .refused .registerAccess) ∧
    ∀ v, s.inputs = .regWrite width offset v :: rest → step s = .refused .registerAccess := by
  have hn : ¬ regAccessDefined width offset = true := by
    rw [regAccessDefined_iff]; omega
  constructor
  · intro h; simp only [step, h, hostRegRead, if_neg hn]
  · intro v h; simp only [step, h, hostRegWrite, if_neg hn]

/-- Settles O10: a read answers `Regs.readAt`, whose value at each offset is one of the lemmas above. -/
theorem registerAccessFollowsContract : Obligations.RegisterAccessFollowsContract := by
  unfold Obligations.RegisterAccessFollowsContract
  constructor
  · intro s rest offset h ha hl
    refine ⟨s.regs.readAt offset, step_regRead h ha hl, ?_, ?_, ?_, ?_, ?_, ?_, ?_, ?_, ?_, ?_, ?_, ?_,
      readAt_reserved s.regs⟩ <;> rintro rfl
    case refine_2 => exact cmdWord_toNat s.regs
    case refine_3 => exact statusWord_toNat s.regs
    case refine_4 => exact errcodeWord_toNat s.regs
    case refine_10 => exact resultInfoWord_toNat s.regs
    case refine_12 => exact irqEnWord_toNat s.regs
    all_goals rfl
  · intro s rest width offset v hd
    exact ⟨(step_regAccess_refused hd).1, (step_regAccess_refused hd).2 v⟩

/-- Read-only and reserved registers ignore writes (R104, R117). -/
theorem writeAt_readOnly (r : Regs) (v : Word) {offset : Nat}
    (h : offset ∈ [0x00, 0x0C, 0x20, 0x24, 0x28, 0x30, 0x34, 0x38, 0x3C]) : r.writeAt offset v = r := by
  simp only [List.mem_cons, List.not_mem_nil, or_false] at h
  rcases h with rfl | rfl | rfl | rfl | rfl | rfl | rfl | rfl | rfl <;> rfl

/-- Settles O11: every write but the one to `CMD` is `Regs.writeAt`. -/
theorem registerWriteChangesOnlyItsField : Obligations.RegisterWriteChangesOnlyItsField := by
  unfold Obligations.RegisterWriteChangesOnlyItsField
  intro s rest offset v h
  refine ⟨?_, ?_, ?_, ?_, ?_, ?_, fun hm => ?_⟩
  case refine_7 =>
    have hd : offset % 4 = 0 ∧ offset < 64 ∧ offset ≠ 0x04 := by
      simp only [List.mem_cons, List.not_mem_nil, or_false] at hm; omega
    rw [step_regWrite h hd.1 hd.2.1 hd.2.2, writeAt_readOnly s.regs v hm]
  all_goals
    rintro rfl
    exact step_regWrite h (by decide) (by decide) (by decide)

/-- Settles O2: the engine is idle after reset, so each invariant is a fact about `BUSY`, `ERRCODE`, the empty memory and the
zeroed arrays. -/
theorem resetStateIsLegal : Obligations.ResetStateIsLegal := by
  unfold Obligations.ResetStateIsLegal
  refine ⟨⟨wf_reset, fun h => ?_, fun h => ?_, ⟨fun _ => rfl, fun _ => rfl⟩, Nat.zero_le 7⟩, trivial, trivial,
    trivial, ⟨List.length_replicate, List.length_replicate⟩, ?_⟩
  · cases h
  · cases h.1
  · exact Nat.zero_lt_one

end Sys2Proof.Proofs

/-! PROOFS. The register block and the engine agree after every step (10_state.md R107, R108), and host memory stays
canonical: one lemma per way an instruction ends and per host action. -/

namespace Sys2Proof.Proofs

open Sys2Proof Sys2Proof.Machine Sys2Proof.Laws

/-- The invariant speaks of host memory, the register block and the phase only. -/
theorem inv_of_frame {s t : State} (h : s.Inv) (hm : t.mem.wf = true) (hr : t.regs = s.regs) (hp : t.phase = s.phase) :
    t.Inv := by
  obtain ⟨_, hbusy, hends, hidle, hcode⟩ := h
  unfold State.Inv
  rw [hr, hp]
  exact ⟨hm, hbusy, hends, hidle, hcode⟩

/-- An idle machine needs only ends that exclude each other and an error code in range. -/
theorem inv_of_idle {t : State} (hm : t.mem.wf = true) (hp : t.phase = .idle) (hb : t.regs.busy = false)
    (he : ¬(t.regs.done = true ∧ t.regs.err = true)) (hc : t.regs.errcode.toNat ≤ 7) : t.Inv := by
  refine ⟨hm, fun h => ?_, he, ⟨fun _ => hb, fun _ => hp⟩, hc⟩
  rw [hb] at h; cases h

/-! Ends of a command. -/

theorem code_le_seven (e : ErrCode) : e.code.toNat ≤ 7 := by
  cases e <;> decide

/-- U6 leaves `ERRCODE` open within 3 bits (V4). -/
theorem flagsAtSpoiledEnd_errcode_le (r : Regs) (nonce : Nat) : (r.flagsAtSpoiledEnd nonce).errcode.toNat ≤ 7 := by
  have h3 := ((Config.freeWord nonce 0).extractLsb' 0 3).isLt
  have hz : (r.flagsAtSpoiledEnd nonce).errcode.toNat = ((Config.freeWord nonce 0).extractLsb' 0 3).toNat :=
    BitVec.toNat_setWidth_of_le (by omega)
  omega

theorem inv_endSpoiled {u : State} (hm : u.mem.wf = true) : u.endSpoiled.Inv := by
  refine inv_of_idle (wf_endSpoiled hm) (endSpoiled_phase u) (endSpoiled_busy u) ?_ (flagsAtSpoiledEnd_errcode_le _ _)
  simp [State.endSpoiled]

theorem inv_raiseError {u : State} (hm : u.mem.wf = true) (e : ErrCode) (info : Word) : (u.raiseError e info).Inv := by
  unfold State.raiseError
  split
  · exact inv_endSpoiled hm
  · exact inv_of_idle (wf_loseDst hm) rfl rfl (by simp) (code_le_seven e)

theorem inv_complete {u : State} (hm : u.mem.wf = true) (he : u.regs.err = false) (hc : u.regs.errcode = 0)
    (len : Word) (form fallback : Bool) : (u.complete len form fallback).Inv := by
  unfold State.complete
  split
  · exact inv_endSpoiled hm
  · exact inv_of_idle hm rfl rfl (by simp [he]) (by simp [hc])

/-- Each way in which an instruction ends keeps the invariant of the busy engine. -/
theorem InstrEnd.inv {s t : State} (h : InstrEnd s t) (hs : s.Inv) (hp : s.phase ≠ .idle) : t.Inv := by
  obtain ⟨hm, hbusy, hends, hidle, hcode⟩ := hs
  have hb : s.regs.busy = true := by
    rw [← Bool.not_eq_false]; exact fun hb => hp (hidle.mpr hb)
  cases h with
  | goesOn h hq =>
    unfold State.Inv
    rw [h.regs]
    exact ⟨h.wf hm, hbusy, hends, ⟨fun hi => absurd hi hq, fun hf => absurd (hidle.mpr hf) hp⟩, hcode⟩
  | raised h e info => exact inv_raiseError (h.wf hm) e info
  | completed h len form fallback =>
    obtain ⟨_, herr, hzero, _⟩ := hbusy hb
    exact inv_complete (h.wf hm) (by rw [h.regs, herr]) (by rw [h.regs, hzero]) len form fallback

theorem engineStep_inv {s t : State} (hs : s.Inv) (h : engineStep s = .next t) : t.Inv := by
  rcases engineStep_end h with ⟨_, rfl⟩ | ⟨hp, he⟩
  · exact hs
  · exact he.inv hs hp

/-! Host actions. -/

theorem inv_resetNow {s : State} (hm : s.mem.wf = true) : s.resetNow.Inv := by
  refine inv_of_idle ?_ rfl rfl (fun h => by cases h.1) (Nat.zero_le 7)
  unfold State.resetNow
  simp only
  split
  · exact wf_forgetDst hm
  · exact hm

theorem inv_startCommand {s : State} (hm : s.mem.wf = true) (v : Word) : (s.startCommand v).Inv :=
  ⟨hm, fun _ => ⟨rfl, rfl, rfl, rfl, rfl, rfl, rfl⟩, fun h => (by cases h.1), ⟨nofun, nofun⟩, Nat.zero_le 7⟩

theorem inv_writeCmd {s : State} (hs : s.Inv) (v : Word) : (s.writeCmd v).Inv := by
  unfold State.writeCmd
  split
  · exact hs
  · exact inv_startCommand hs.1 v

/-- A register write that starts nothing sets none of the flags and leaves the results (R104, R814). -/
theorem writeAt_status (r : Regs) (offset : Nat) (v : Word) :
    (r.writeAt offset v).busy = r.busy ∧ (r.writeAt offset v).errcode = r.errcode ∧
    (r.resultsClear → (r.writeAt offset v).resultsClear) ∧
    ((r.writeAt offset v).done = true → r.done = true) ∧ ((r.writeAt offset v).err = true → r.err = true) := by
  unfold Regs.writeAt
  split_ifs
  case pos =>
    refine ⟨rfl, rfl, id, ?_, ?_⟩
    · simp only [clearW1C_done, Bool.and_eq_true]; exact And.left
    · simp only [clearW1C_err, Bool.and_eq_true]; exact And.left
  all_goals exact ⟨rfl, rfl, id, id, id⟩

theorem inv_writeAt {s : State} (hs : s.Inv) (offset : Nat) (v : Word) :
    State.Inv { s with regs := s.regs.writeAt offset v } := by
  obtain ⟨hm, hbusy, hends, hidle, hcode⟩ := hs
  obtain ⟨hb, he, hclear, hdone, herr⟩ := writeAt_status s.regs offset v
  refine ⟨hm, fun h => ?_, fun h => hends ⟨hdone h.1, herr h.2⟩, by simpa only [hb] using hidle,
    by simpa only [he] using hcode⟩
  obtain ⟨h1, h2, h3⟩ := hbusy (hb.symm.trans h)
  refine ⟨?_, ?_, hclear h3⟩
  · rw [← Bool.not_eq_true]; exact fun hd => by rw [hdone hd] at h1; cases h1
  · rw [← Bool.not_eq_true]; exact fun hd => by rw [herr hd] at h2; cases h2

/-- Settles O3, by the cases of a step. -/
theorem stepKeepsInv : Obligations.StepKeepsInv := by
  unfold Obligations.StepKeepsInv
  intro s t hs h
  have hm : s.mem.wf = true := hs.1
  cases step_next_cases h with
  | engine _ h => exact engineStep_inv (s := s.taken) (inv_of_frame hs hm rfl rfl) h
  | access _ _ => exact inv_of_frame hs (wf_onMemory hm _) rfl rfl
  | reset _ => exact inv_resetNow hm
  | regRead _ => exact inv_of_frame hs hm rfl rfl
  | cmdWrite _ => exact inv_writeCmd (s := s.entryTaken) (inv_of_frame hs hm rfl rfl) _
  | regWrite _ _ => exact inv_writeAt (s := s.entryTaken) (inv_of_frame hs hm rfl rfl) _ _
  | memRead _ _ _ => exact inv_of_frame hs hm rfl rfl
  | memWrite _ => exact inv_of_frame hs (wf_write _ _ hm) rfl rfl

end Sys2Proof.Proofs

/-! PROOFS. The engine writes its destination only (20_memory.md R201, R206): a whole instruction, by the three ways in which
it ends, and each access of it (70_reset_and_hazards.md R958), by the list of accesses of each decoder state. -/

namespace Sys2Proof.Proofs

open Sys2Proof Sys2Proof.Machine Sys2Proof.Laws

/-! Whole instructions. -/

theorem InstrEnd.lat {s t : State} (h : InstrEnd s t) : t.lat = s.lat := by
  cases h with
  | goesOn h _ => exact h.lat
  | raised h e info => rw [raiseError_lat, h.lat]
  | completed h len a b => rw [complete_lat, h.lat]

theorem InstrEnd.sameOutside {s t : State} (h : InstrEnd s t) (hd : s.DstInv) :
    SameOutside s.mem t.mem s.lat.dst s.lat.cap := by
  cases h with
  | goesOn h _ => exact h.outside hd
  | raised h e info =>
    exact SameOutside.trans (h.outside hd) (h.lat ▸ raiseError_sameOutside _ e info)
  | completed h len a b =>
    exact SameOutside.trans (h.outside hd) (h.lat ▸ complete_sameOutside _ len a b)

/-- The engine's instruction keeps the latched operands and the bytes outside the destination. -/
theorem engineStep_outside {s t : State} (hd : s.DstInv) (h : engineStep s = .next t) :
    SameOutside s.mem t.mem s.lat.dst s.lat.cap ∧ t.lat = s.lat := by
  rcases engineStep_end h with ⟨_, rfl⟩ | ⟨_, he⟩
  · exact ⟨sameOutside_refl _ _ _, rfl⟩
  · exact ⟨he.sameOutside hd, he.lat⟩

/-! Commands without a destination (R201). -/

theorem loseDst_mem_of_noDst {s : State} (h : writesDst s.lat.op = false) : s.loseDst.mem = s.mem := by
  rw [loseDst_of_noDst h]

theorem endSpoiled_mem_of_noDst {s : State} (h : writesDst s.lat.op = false) : s.endSpoiled.mem = s.mem :=
  loseDst_mem_of_noDst h

theorem raiseError_mem_of_noDst {s : State} (h : writesDst s.lat.op = false) (e : ErrCode) (info : Word) :
    (s.raiseError e info).mem = s.mem := by
  unfold State.raiseError
  split
  · exact endSpoiled_mem_of_noDst h
  · exact loseDst_mem_of_noDst h

theorem complete_mem_of_noDst {s : State} (h : writesDst s.lat.op = false) (len : Word) (a b : Bool) :
    (s.complete len a b).mem = s.mem := by
  unfold State.complete
  split
  · exact endSpoiled_mem_of_noDst h
  · rfl

theorem measureWork_mem {s : State} (h : writesDst s.lat.op = false) (l : Level) : (s.measureWork l).mem = s.mem := by
  have hm := attempt_measure_mem s l
  rcases measureWork_cases s l with ⟨e, _, ht⟩ | ⟨_, _, ht⟩ | ⟨w, _, _, hw, ht⟩ | ⟨w, _, _, hw, ht⟩
  · rw [ht, raiseError_mem_of_noDst h]
  · rw [ht, complete_mem_of_noDst h]
  · rw [hw] at hm; rw [ht, complete_mem_of_noDst (s := s.withWork w) h]; exact hm
  · rw [hw] at hm; rw [ht, complete_mem_of_noDst (s := s.withWork w) h]; exact hm

theorem getLengthWork_mem {s : State} (h : writesDst s.lat.op = false) : s.getLengthWork.mem = s.mem := by
  rcases getLengthWork_cases s with ⟨e, _, ht⟩ | ⟨_, ht⟩
  · rw [ht, raiseError_mem_of_noDst h]
  · rw [ht, complete_mem_of_noDst h]

theorem decompressWork_mem {s : State} (h : writesDst s.lat.op = false) : s.decompressWork.mem = s.mem := by
  rcases decompressWork_cases s with ⟨e, _, ht⟩ | ⟨_, ht⟩
  · rw [ht, raiseError_mem_of_noDst h]
  · rw [ht]

/-- With no destination latched, COMPRESS alone could write. -/
theorem commandWork_mem {i : Instr} {s t : State} (hd : writesDst s.lat.op = false) (hi : ∀ l, i ≠ .compress l)
    (h : CommandWork i s t) : t.mem = s.mem := by
  rcases h with ⟨_, rfl⟩ | ⟨l, hc, _⟩ | ⟨_, rfl⟩ | ⟨_, rfl⟩ | ⟨l, _, rfl⟩ | ⟨_, rfl⟩
  · exact complete_mem_of_noDst hd _ _ _
  · exact absurd hc (hi l)
  · exact decompressWork_mem hd
  · exact getLengthWork_mem hd
  · exact measureWork_mem hd l
  · exact raiseError_mem_of_noDst hd _ _

theorem commandWord_op (l : Latched) : l.commandWord.extractLsb' 0 3 = l.op := by
  have packed : ∀ (op : BitVec 3) (level : BitVec 2),
      (op.zeroExtend 32 ||| (level.zeroExtend 32 <<< 4)).extractLsb' 0 3 = op := by decide
  exact packed l.op l.level

/-- Only `OP` 1 is COMPRESS (30_encoding.md R301). -/
theorem op_of_decodeCommand_compress {l : Latched} {level : Level} (h : decodeCommand l.commandWord = .compress level) :
    l.op = 1 := by
  simp only [decodeCommand, commandWord_op] at h
  split_ifs at h
  assumption

/-- A command without a destination changes no byte (R201). -/
theorem engineStep_mem_of_noDst {s t : State} (hp : s.phase = .start) (h1 : s.lat.op ≠ 1) (h2 : s.lat.op ≠ 2)
    (h : engineStep s = .next t) : t.mem = s.mem := by
  have hd : writesDst s.lat.op = false := decide_eq_false (not_or.mpr ⟨h1, h2⟩)
  have hx : exec (decodeCommand s.lat.commandWord) s = .next t := by
    simpa only [engineStep, fetch, hp] using h
  rcases exec_next_cases hx with ⟨_, hw⟩ | ⟨hq, _⟩ | ⟨hq, _⟩ | ⟨⟨_, _, _, hq⟩, _⟩ | ⟨hq, _⟩ | ⟨_, hq, _⟩
  case inl => exact commandWork_mem hd (fun _ hc => h1 (op_of_decodeCommand_compress hc)) hw
  all_goals cases hp.symm.trans hq

/-! The writes of each list of accesses. -/

theorem storedFormAccesses_inDst {s t : State} {a : Word} {v : Byte} (hc : s.lat.checkCompress = none)
    (h : .write a v ∈ storedFormAccesses s t) : inRange a s.lat.dst s.lat.cap = true := by
  obtain ⟨hbad, hcap⟩ := checkCompress_none hc
  obtain ⟨i, hi, rfl, _⟩ := write_mem_storedFormAccesses h
  exact inRange_of_offset (dst_unwrapped hbad) (by omega)

theorem compressAccesses_inDst {s t : State} {l : Level} {a : Word} {v : Byte}
    (h : .write a v ∈ compressAccesses s t l) : inRange a s.lat.dst s.lat.cap = true := by
  unfold compressAccesses at h
  split at h
  · simp at h
  · rename_i hc
    obtain ⟨hbad, hcap⟩ := checkCompress_none hc
    have hw := dst_unwrapped hbad
    split at h
    · exact storedFormAccesses_inDst hc h
    · simp only [List.mem_append, write_not_mem_readsAt, false_or, wwords_toNat] at h
      rcases h with h | h
      · obtain ⟨i, hi, rfl, _⟩ := write_mem_writesAt h
        have hle := attempt_words_le s l .write
        exact inRange_within (off := 4) hw rfl (by simp; omega)
      · split at h
        · obtain ⟨i, hi, rfl, _⟩ := write_mem_writesAt h
          exact inRange_of_offset hw (by omega)
        · exact storedFormAccesses_inDst hc h

theorem write_not_mem_measureAccesses (s : State) (a : Word) (v : Byte) : .write a v ∉ measureAccesses s := by
  unfold measureAccesses
  split
  · simp
  · split
    · simp
    · exact write_not_mem_readsAt _ _ _ _

theorem write_not_mem_getLengthAccesses (s : State) (a : Word) (v : Byte) : .write a v ∉ getLengthAccesses s := by
  unfold getLengthAccesses
  split
  · simp
  · exact write_not_mem_readsAt _ _ _ _

/-- Of the commands only COMPRESS writes before its last step. -/
theorem commandAccesses_inDst {s t : State} {a : Word} {v : Byte} (h : .write a v ∈ commandAccesses s t) :
    inRange a s.lat.dst s.lat.cap = true ∧ s.lat.op = 1 := by
  unfold commandAccesses at h
  split_ifs at h with h1 h3 h4
  · exact ⟨compressAccesses_inDst h, h1⟩
  · exact absurd h (write_not_mem_getLengthAccesses _ _ _)
  · exact absurd h (write_not_mem_measureAccesses _ _ _)
  · simp at h

theorem headerAccesses_inDst {s t : State} {a : Word} {v : Byte} (hbad : s.lat.rangesBad = false)
    (h : .write a v ∈ headerAccesses s t) : inRange a s.lat.dst s.lat.cap = true := by
  simp only [headerAccesses, List.mem_append, write_not_mem_readsAt, false_or] at h
  split_ifs at h with hc
  · simp at h
  · obtain ⟨i, hi, rfl, _⟩ := write_mem_copiesAt h
    exact inRange_of_offset (dst_unwrapped hbad) (by omega)

/-- Byte `i` from the output position on, of those still to come. -/
theorem outputRoom_inRange {s : State} {i : Nat} (h : s.outputRoom) (hi : s.dec.out.toNat + i < s.dec.m.toNat) :
    inRange (s.lat.dst + s.dec.out + BitVec.ofNat 32 i) s.lat.dst s.lat.cap = true := by
  obtain ⟨hbad, hcap, _⟩ := h
  exact inRange_within (dst_unwrapped hbad) rfl (by omega)

theorem storedBlockAccesses_inDst {s t : State} {r0 r : Reader} {a : Word} {v : Byte} (hr : s.outputRoom)
    (h : .write a v ∈ storedBlockAccesses s t r0 r) : inRange a s.lat.dst s.lat.cap = true := by
  unfold storedBlockAccesses at h
  split at h
  · exact absurd h (write_not_mem_loadsTo _ _ _ _)
  · split at h
    · exact absurd h (write_not_mem_loadsTo _ _ _ _)
    · rename_i e r1 _ _ r2 _
      simp only [List.mem_append, write_not_mem_loadsTo, false_or] at h
      obtain ⟨i, _, hi, rfl⟩ := write_mem_storedByteAccesses _ _ h
      have hk := storedCount_le e s.dec.m.toNat s.dec.out.toNat
      exact outputRoom_inRange hr (by omega)

theorem blockAccesses_inDst {s t : State} {a : Word} {v : Byte} (hr : s.outputRoom)
    (h : .write a v ∈ blockAccesses s t) : inRange a s.lat.dst s.lat.cap = true := by
  unfold blockAccesses at h
  split at h
  · exact storedBlockAccesses_inDst hr h
  · exact absurd h (write_not_mem_loadsTo _ _ _ _)
  · exact absurd h (write_not_mem_loadsTo _ _ _ _)

/-! How many bytes a data symbol produces. -/

@[simp] theorem blockLoop_dec (s : State) : s.blockLoop.dec = s.dec := by
  rcases blockLoop_cases s with ⟨_, e⟩ | ⟨_, e⟩ <;> rw [e]
  exact complete_dec _ _ _ _

@[simp] theorem symbolLoop_dec (s : State) : s.symbolLoop.dec = s.dec := by
  rcases symbolLoop_cases s with ⟨_, _, e⟩ | ⟨_, e⟩ <;> rw [e]
  exact blockLoop_dec s

/-- The bytes that an instruction produces are among those still to come. -/
def ProducesWithin (s t : State) : Prop := s.dec.out.toNat + produced s t ≤ s.dec.m.toNat

theorem producesWithin_of_out {s t : State} {k : Nat} (ho : t.dec.out = s.dec.out + BitVec.ofNat 32 k)
    (hk : s.dec.out.toNat + k ≤ s.dec.m.toNat) : ProducesWithin s t := by
  have hm := s.dec.m.isLt
  have hp : produced s t = k := by
    rw [produced, ho, BitVec.add_comm, BitVec.add_sub_cancel, BitVec.toNat_ofNat, Nat.mod_eq_of_lt (by omega)]
  rw [ProducesWithin, hp]; exact hk

theorem producesWithin_of_same {s t : State} (hr : s.outputRoom) (h : t.dec.out = s.dec.out) : ProducesWithin s t :=
  producesWithin_of_out (k := 0) (by simp [h]) (Nat.le_of_lt hr.2.2)

theorem exec_producesWithin {i : Instr} {s t : State} (hr : s.outputRoom)
    (hp : s.phase = .symbol ∨ ∃ len, s.phase = .dist len) (h : exec i s = .next t) : ProducesWithin s t := by
  rcases exec_next_cases h with ⟨hq, _⟩ | ⟨hq, _⟩ | ⟨hq, _⟩ | ⟨⟨_, _, _, hq⟩, _⟩ |
    ⟨_, ⟨b, rfl⟩ | ⟨n, rfl⟩⟩ | ⟨len, _, c, x, rfl⟩
  · simp [hq] at hp
  · simp [hq] at hp
  · simp [hq] at hp
  · simp [hq] at hp
  · exact producesWithin_of_out (k := 1) (by simp [State.literal]) hr.2.2
  · exact producesWithin_of_same hr rfl
  · rcases distanceWork_cases s len c x with ⟨info, u, hw, hu, _⟩ | ⟨d, cache, _, _, hlen, hw⟩
    · exact producesWithin_of_same hr (by rw [hw, raiseError_dec, hu])
    · have hout := hr.2.2
      exact producesWithin_of_out (k := len) (by rw [hw, symbolLoop_dec]; simp) (by omega)

theorem engineStep_producesWithin {s t : State} (hr : s.outputRoom)
    (hp : s.phase = .symbol ∨ ∃ len, s.phase = .dist len) (h : engineStep s = .next t) : ProducesWithin s t := by
  rcases engineStep_cases h with ⟨hq, _⟩ | ⟨i, hq, _⟩ | ⟨i, hq, _⟩ | ⟨i, r, hq, _⟩ | ⟨q, c, j, i, r, hq, _⟩ |
    ⟨i, r, _, _, he⟩ | ⟨len, i, r, _, _, he⟩ | ⟨e, info, _, _, _, rfl⟩
  · simp [hq] at hp
  · simp [hq] at hp
  · simp [hq] at hp
  · simp [hq] at hp
  · simp [hq] at hp
  · exact exec_producesWithin (s := { s with rd := r }) hr hp he
  · exact exec_producesWithin (s := { s with rd := r }) hr hp he
  · exact producesWithin_of_same hr (by rw [raiseError_dec])

theorem symbolAccesses_inDst {s t : State} {a : Word} {v : Byte} (hr : s.outputRoom) (hk : ProducesWithin s t)
    (h : .write a v ∈ symbolAccesses s t) : inRange a s.lat.dst s.lat.cap = true := by
  simp only [symbolAccesses, List.mem_append, write_not_mem_loadsTo, false_or] at h
  obtain ⟨i, hi, rfl, _⟩ := write_mem_writesAt h
  unfold ProducesWithin at hk
  exact outputRoom_inRange hr (by omega)

theorem distanceAccesses_inDst {s t : State} {a : Word} {v : Byte} (hr : s.outputRoom) (hk : ProducesWithin s t)
    (h : .write a v ∈ distanceAccesses s t) : inRange a s.lat.dst s.lat.cap = true := by
  simp only [distanceAccesses, List.mem_append, write_not_mem_loadsTo, false_or] at h
  obtain ⟨i, hi, rfl, _⟩ := write_mem_copiesAt h
  unfold ProducesWithin at hk
  exact outputRoom_inRange hr (by omega)

/-! Every access. -/

/-- A write of the engine's instruction goes to the destination, and of the commands only COMPRESS makes one. -/
theorem accessesBetween_inDst {s t : State} {a : Word} {v : Byte} (hd : s.DstInv) (ht : engineStep s = .next t)
    (h : .write a v ∈ accessesBetween s t) :
    inRange a s.lat.dst s.lat.cap = true ∧ (s.phase = .start → s.lat.op = 1) := by
  cases hp : s.phase with
  | idle => simp [accessesBetween, hp] at h
  | start =>
    simp only [accessesBetween, hp] at h
    obtain ⟨hin, hop⟩ := commandAccesses_inDst h
    exact ⟨hin, fun _ => hop⟩
  | header =>
    simp only [accessesBetween, hp] at h
    exact ⟨headerAccesses_inDst (rangesBad_of_header hd hp) h, nofun⟩
  | block =>
    simp only [accessesBetween, hp] at h
    exact ⟨blockAccesses_inDst (outputRoom_of_phase hd (.inl hp)) h, nofun⟩
  | rle q c j =>
    simp only [accessesBetween, hp] at h
    exact absurd h (write_not_mem_loadsTo _ _ _ _)
  | symbol =>
    simp only [accessesBetween, hp] at h
    have hr := outputRoom_of_phase hd (.inr (.inr (.inl hp)))
    exact ⟨symbolAccesses_inDst hr (engineStep_producesWithin hr (.inl hp) ht) h, nofun⟩
  | dist len =>
    simp only [accessesBetween, hp] at h
    have hr := outputRoom_of_phase hd (.inr (.inr (.inr ⟨len, hp⟩)))
    exact ⟨distanceAccesses_inDst hr (engineStep_producesWithin hr (.inr ⟨len, hp⟩) ht) h, nofun⟩

theorem accesses_inDst {s : State} {a : Word} {v : Byte} (hd : s.DstInv) (h : .write a v ∈ accesses s) :
    inRange a s.lat.dst s.lat.cap = true ∧ (s.phase = .start → s.lat.op = 1) := by
  unfold accesses at h
  simp only at h
  split at h
  · rename_i t ht
    exact accessesBetween_inDst (s := { s with tainted := false }) hd ht h
  · simp at h
  · simp at h

/-- One access of the engine changes no byte outside the destination, and none at all in a command other than COMPRESS. -/
theorem access_outside {s : State} {a : Access} (hd : s.DstInv) (h : a ∈ accesses s) :
    SameOutside s.mem (a.onMemory s.mem) s.lat.dst s.lat.cap ∧
    (s.phase = .start → s.lat.op ≠ 1 → a.onMemory s.mem = s.mem) := by
  cases a with
  | read b => exact ⟨sameOutside_refl _ _ _, fun _ _ => rfl⟩
  | write b v =>
    obtain ⟨hin, hop⟩ := accesses_inDst hd h
    refine ⟨fun x hx => read_write_other s.mem v (fun e => ?_), fun hp h1 => absurd (hop hp) h1⟩
    rw [e, hin] at hx; cases hx

/-- Settles O9: an instruction by the way it ends, one access of it by the list it stands in. -/
theorem engineWritesOnlyDestination : Obligations.EngineWritesOnlyDestination := by
  unfold Obligations.EngineWritesOnlyDestination
  intro s t hd turn h
  have whole : engineStep s.taken = .next t → SameOutside s.mem t.mem s.lat.dst s.lat.cap ∧ t.lat = s.lat ∧
      (s.phase = .start → s.lat.op ≠ 1 → s.lat.op ≠ 2 → t.mem = s.mem) := fun he => by
    obtain ⟨hout, hlat⟩ := engineStep_outside (s := s.taken) hd he
    exact ⟨hout, hlat, fun hp h1 h2 => engineStep_mem_of_noDst (s := s.taken) hp h1 h2 he⟩
  rcases turn with turn | turn
  · exact whole ((step_of_engineTurn turn).symm.trans h)
  · rcases step_of_tickTurn turn with ⟨a, ha, _, hs⟩ | ⟨_, hs⟩
    · rw [hs] at h; cases h
      obtain ⟨hout, hquiet⟩ := access_outside (s := s.entryTaken) hd ha
      exact ⟨hout, rfl, fun hp h1 _ => hquiet hp h1⟩
    · exact whole (hs.symm.trans h)

end Sys2Proof.Proofs

/-! PROOFS. The decoder's next byte stays inside a legal destination (20_memory.md R202, R206, 48_symbol_decoder_and_copy.md
R754, R758): the header's checks bound the output by the capacity, and the loop tests of R702 and R710 leave room for one
more byte wherever the decoder goes on. -/

namespace Sys2Proof.Proofs

open Sys2Proof Sys2Proof.Machine Sys2Proof.Laws

/-- The invariant speaks of the latched operands, the decoder's registers and the phase only. -/
theorem dstInv_of_frame {s t : State} (h : s.DstInv) (hl : t.lat = s.lat) (hd : t.dec = s.dec) (hp : t.phase = s.phase) :
    t.DstInv := by
  unfold State.DstInv State.outputRoom
  rw [hl, hd, hp]
  exact h

theorem dstInv_of_idle {t : State} (h : t.phase = .idle) : t.DstInv := by
  simp only [State.DstInv, h]

theorem dstInv_raiseError (s : State) (e : ErrCode) (info : Word) : (s.raiseError e info).DstInv :=
  dstInv_of_idle (raiseError_phase s e info)

theorem dstInv_complete (s : State) (len : Word) (form fallback : Bool) : (s.complete len form fallback).DstInv :=
  dstInv_of_idle (complete_phase s len form fallback)

/-! The decoder's loops. -/

/-- The whole output fits a legal destination, whether or not a byte of it is still to come: what remains of the invariant
while a token writes. -/
def OutputFits (s : State) : Prop :=
  s.lat.op = 2 ∧ s.lat.rangesBad = false ∧ s.dec.m.toNat ≤ s.lat.cap.toNat

theorem outputFits_of_room {s : State} (h : s.lat.op = 2 ∧ s.outputRoom) : OutputFits s := by
  obtain ⟨hop, hbad, hcap, _⟩ := h
  exact ⟨hop, hbad, hcap⟩

theorem room_of_outputFits {s : State} (h : OutputFits s) (hout : s.dec.out.toNat < s.dec.m.toNat) :
    s.lat.op = 2 ∧ s.outputRoom := by
  obtain ⟨hop, hbad, hcap⟩ := h
  exact ⟨hop, hbad, hcap, hout⟩

/-- The test of R702 re-establishes room for the next byte. -/
theorem dstInv_blockLoop {s : State} (h : OutputFits s) : s.blockLoop.DstInv := by
  rcases blockLoop_cases s with ⟨hout, e⟩ | ⟨_, e⟩
  · rw [e]; exact room_of_outputFits h hout
  · rw [e]; exact dstInv_complete _ _ _ _

/-- The test of R710 does too. -/
theorem dstInv_symbolLoop {s : State} (h : OutputFits s) : s.symbolLoop.DstInv := by
  rcases symbolLoop_cases s with ⟨_, hout, e⟩ | ⟨_, e⟩
  · rw [e]; exact room_of_outputFits h hout
  · rw [e]; exact dstInv_blockLoop h

/-! Commands and headers. -/

theorem checkDecompress_none {l : Latched} (h : l.checkDecompress = none) : l.rangesBad = false ∧ 4 ≤ l.n.toNat := by
  unfold Latched.checkDecompress at h
  split_ifs at h with _ hr hn
  exact ⟨by simpa using hr, by omega⟩

theorem dstInv_decompressWork {s : State} (hop : s.lat.op = 2) : s.decompressWork.DstInv := by
  rcases decompressWork_cases s with ⟨e, _, h⟩ | ⟨hc, h⟩
  · rw [h]; exact dstInv_raiseError _ _ _
  · rw [h]; exact ⟨hop, checkDecompress_none hc⟩

/-- Every command but DECOMPRESS ends in the step that does its work. -/
theorem commandWork_idle {i : Instr} {s t : State} (hi : i ≠ .decompress) (h : CommandWork i s t) : t.phase = .idle := by
  rcases h with ⟨_, rfl⟩ | ⟨l, _, rfl⟩ | ⟨hd, _⟩ | ⟨_, rfl⟩ | ⟨l, _, rfl⟩ | ⟨_, rfl⟩
  · exact complete_phase _ _ _ _
  · rcases compressWork_cases s l with ⟨e, _, h⟩ | ⟨_, _, h⟩ | ⟨w, _, _, _, h⟩ | ⟨w, _, _, _, h⟩ <;> simp [h]
  · exact absurd hd hi
  · rcases getLengthWork_cases s with ⟨e, _, h⟩ | ⟨_, h⟩ <;> simp [h]
  · rcases measureWork_cases s l with ⟨e, _, h⟩ | ⟨_, _, h⟩ | ⟨w, _, _, _, h⟩ | ⟨w, _, _, _, h⟩ <;> simp [h]
  · exact raiseError_phase _ _ _

theorem dstInv_commandWork {i : Instr} {s t : State} (hop : i = .decompress → s.lat.op = 2) (h : CommandWork i s t) :
    t.DstInv := by
  by_cases hi : i = .decompress
  · subst hi
    have ht : t = s.decompressWork := by simpa [CommandWork] using h
    rw [ht]; exact dstInv_decompressWork (hop rfl)
  · exact dstInv_of_idle (commandWork_idle hi h)

/-- Only `OP` 2 is DECOMPRESS (30_encoding.md R301). -/
theorem op_of_decodeCommand_decompress {l : Latched} (h : decodeCommand l.commandWord = .decompress) : l.op = 2 := by
  simp only [decodeCommand, commandWord_op] at h
  split_ifs at h
  assumption

theorem dstInv_storedHeader (s : State) (w : Word) : (s.storedHeader w).DstInv := by
  rcases storedHeader_cases s w with ⟨_, h⟩ | ⟨_, _, h⟩ | ⟨_, _, h⟩ <;> rw [h]
  · exact dstInv_raiseError _ _ _
  · exact dstInv_raiseError _ _ _
  · exact dstInv_complete _ _ _ _

/-- The capacity check of R804 makes the output fit. -/
theorem dstInv_huffmanHeader {s : State} (hs : s.DstInv) (hp : s.phase = .header) (w : Word) :
    (s.huffmanHeader w).DstInv := by
  simp only [State.DstInv, hp] at hs
  obtain ⟨hop, hbad, _⟩ := hs
  rcases huffmanHeader_cases s w with ⟨_, h⟩ | ⟨hcap, h⟩
  · rw [h]; exact dstInv_raiseError _ _ _
  · rw [h]; exact dstInv_blockLoop ⟨hop, hbad, hcap⟩

/-! Blocks and tokens. -/

/-- What the invariant says where the decoder is at a block or a token. -/
theorem room_of_phase {s : State} (h : s.DstInv)
    (hp : s.phase = .block ∨ (∃ q c j, s.phase = .rle q c j) ∨ s.phase = .symbol ∨ ∃ len, s.phase = .dist len) :
    s.lat.op = 2 ∧ s.outputRoom := by
  rcases hp with hp | ⟨q, c, j, hp⟩ | hp | ⟨len, hp⟩ <;>
    (simp only [State.DstInv, hp] at h; exact h)

theorem dstInv_storedBlockWork {s t : State} (hf : OutputFits s) (h : s.storedBlockWork = .next t) : t.DstInv := by
  rcases storedBlockWork_next h with ⟨c, info, rfl⟩ | ⟨e, r1, r2, mem, r3, _, _, _, rfl⟩
  · exact dstInv_raiseError _ _ _
  · exact dstInv_blockLoop hf

theorem dstInv_compressedBlockWork {s t : State} (hr : s.lat.op = 2 ∧ s.outputRoom)
    (h : s.compressedBlockWork = .next t) : t.DstInv := by
  rcases compressedBlockWork_next h with ⟨c, info, rfl⟩ | ⟨lens, r1, tree, f, r2, _, _, _, rfl⟩
  · exact dstInv_raiseError _ _ _
  · exact hr

@[simp] theorem setLens_out (d : Decoder) (q : RleSeq) (l : List (BitVec 4)) : (d.setLens q l).out = d.out := by
  cases q <;> rfl

@[simp] theorem setLens_m (d : Decoder) (q : RleSeq) (l : List (BitVec 4)) : (d.setLens q l).m = d.m := by
  cases q <;> rfl

theorem dstInv_codeLength {s t : State} {q : RleSeq} {c j sym x : Nat} (hp : s.phase = .rle q c j)
    (hr : s.lat.op = 2 ∧ s.outputRoom) (h : s.codeLength sym x = .next t) : t.DstInv := by
  rcases codeLength_next hp h with ⟨u, e, info, rfl, _⟩ |
    ⟨lens, k, _, ⟨_, rfl⟩ | ⟨_, _, tree, f, r, _, _, rfl⟩ | ⟨_, _, tree, _, rfl⟩⟩
  · exact dstInv_raiseError _ _ _
  · exact by simpa [State.DstInv, State.outputRoom] using hr
  · exact hr
  · exact dstInv_symbolLoop (outputFits_of_room hr)

theorem dstInv_literal {s : State} (hf : OutputFits s) (b : Byte) : (s.literal b).DstInv := by
  unfold State.literal
  exact dstInv_symbolLoop hf

theorem dstInv_distanceWork {s : State} (hf : OutputFits s) (len c x : Nat) : (s.distanceWork len c x).DstInv := by
  rcases distanceWork_cases s len c x with ⟨info, u, h, _, _⟩ | ⟨d, cache, _, _, _, h⟩
  · rw [h]; exact dstInv_raiseError _ _ _
  · rw [h]; exact dstInv_symbolLoop hf

/-! Instructions and steps. -/

/-- An instruction keeps the invariant, where DECOMPRESS starts with its own `OP` latched. -/
theorem exec_dstInv {i : Instr} {s t : State} (hs : s.DstInv) (hop : s.phase = .start → i = .decompress → s.lat.op = 2)
    (h : exec i s = .next t) : t.DstInv := by
  rcases exec_next_cases h with ⟨hp, hw⟩ | ⟨hp, ⟨w, rfl⟩ | ⟨w, rfl⟩⟩ | ⟨hp, hw⟩ | ⟨⟨q, c, j, hp⟩, sym, x, hw⟩ |
    ⟨hp, ht⟩ | ⟨len, hp, c, x, rfl⟩
  · exact dstInv_commandWork (hop hp) hw
  · exact dstInv_storedHeader s w
  · exact dstInv_huffmanHeader hs hp w
  · have room := room_of_phase hs (.inl hp)
    have fits := outputFits_of_room room
    rcases hw with hw | hw
    · exact dstInv_storedBlockWork fits hw
    · exact dstInv_compressedBlockWork room hw
  · exact dstInv_codeLength hp (room_of_phase hs (.inr (.inl ⟨q, c, j, hp⟩))) hw
  · have room := room_of_phase hs (.inr (.inr (.inl hp)))
    have fits := outputFits_of_room room
    rcases ht with ⟨b, rfl⟩ | ⟨n, rfl⟩
    · refine dstInv_literal ?_ b
      exact fits
    · exact room
  · exact dstInv_distanceWork (outputFits_of_room (room_of_phase hs (.inr (.inr (.inr ⟨len, hp⟩))))) len c x

/-- A token runs in the state after its bits are read, which differs in the reader only. -/
theorem exec_dstInv_of_fetch {i : Instr} {s t : State} {r : Reader} (hs : s.DstInv) (hp : s.phase ≠ .start)
    (h : exec i { s with rd := r } = .next t) : t.DstInv :=
  exec_dstInv (s := { s with rd := r }) (dstInv_of_frame hs rfl rfl rfl) (fun hq => absurd hq hp) h

theorem engineStep_dstInv {s t : State} (hs : s.DstInv) (h : engineStep s = .next t) : t.DstInv := by
  rcases engineStep_cases h with ⟨_, rfl⟩ | ⟨i, _, hi, he⟩ | ⟨i, hp, _, he⟩ | ⟨i, r, hp, _, he⟩ |
    ⟨q, c, j, i, r, hp, _, he⟩ | ⟨i, r, hp, _, he⟩ | ⟨len, i, r, hp, _, he⟩ | ⟨e, info, _, _, _, rfl⟩
  · exact hs
  · exact exec_dstInv hs (fun _ hd => op_of_decodeCommand_decompress (hi.symm.trans hd)) he
  · exact exec_dstInv hs (fun hq => by cases hp.symm.trans hq) he
  · exact exec_dstInv_of_fetch hs (by simp [hp]) he
  · exact exec_dstInv_of_fetch hs (by simp [hp]) he
  · exact exec_dstInv_of_fetch hs (by simp [hp]) he
  · exact exec_dstInv_of_fetch hs (by simp [hp]) he
  · exact dstInv_raiseError _ _ _

theorem dstInv_writeCmd {s : State} (hs : s.DstInv) (v : Word) : (s.writeCmd v).DstInv := by
  unfold State.writeCmd
  split
  · exact dstInv_of_frame hs rfl rfl rfl
  · trivial

/-- Settles O4, by the cases of a step: of those other than an instruction, only a reset and the start of a command touch
what the invariant speaks of. -/
theorem stepKeepsDstInv : Obligations.StepKeepsDstInv := by
  unfold Obligations.StepKeepsDstInv
  intro s t hs h
  cases step_next_cases h with
  | engine _ h => exact engineStep_dstInv (s := s.taken) (dstInv_of_frame hs rfl rfl rfl) h
  | access _ _ => exact dstInv_of_frame hs rfl rfl rfl
  | reset _ => exact dstInv_of_idle rfl
  | regRead _ => exact dstInv_of_frame hs rfl rfl rfl
  | cmdWrite _ => exact dstInv_writeCmd (s := s.entryTaken) (dstInv_of_frame hs rfl rfl rfl) _
  | regWrite _ _ => exact dstInv_of_frame hs rfl rfl rfl
  | memRead _ _ _ => exact dstInv_of_frame hs rfl rfl rfl
  | memWrite _ => exact dstInv_of_frame hs rfl rfl rfl

end Sys2Proof.Proofs

/-! PROOFS. What a host access during a command leaves open (20_memory.md R213, 93_implementation_defined.md U5, U6): the end
of a spoiled command, and the host's reads and writes of host memory. -/

namespace Sys2Proof.Proofs

open Sys2Proof Sys2Proof.Machine Sys2Proof.Laws

/-! No instruction clears or sets the mark of a spoiled command. -/

@[simp] theorem blockLoop_tainted (s : State) : s.blockLoop.tainted = s.tainted := by
  rcases blockLoop_cases s with ⟨_, e⟩ | ⟨_, e⟩ <;> rw [e]
  exact complete_tainted _ _ _ _

@[simp] theorem symbolLoop_tainted (s : State) : s.symbolLoop.tainted = s.tainted := by
  rcases symbolLoop_cases s with ⟨_, _, e⟩ | ⟨_, e⟩ <;> rw [e]
  exact blockLoop_tainted s

theorem commandWork_tainted {i : Instr} {s t : State} (h : CommandWork i s t) : t.tainted = s.tainted := by
  rcases h with ⟨_, rfl⟩ | ⟨l, _, rfl⟩ | ⟨_, rfl⟩ | ⟨_, rfl⟩ | ⟨l, _, rfl⟩ | ⟨_, rfl⟩
  · exact complete_tainted _ _ _ _
  · rcases compressWork_cases s l with ⟨e, _, h⟩ | ⟨_, _, h⟩ | ⟨w, _, _, _, h⟩ | ⟨w, _, _, _, h⟩ <;> simp [h]
  · rcases decompressWork_cases s with ⟨e, _, h⟩ | ⟨_, h⟩ <;> simp [h]
  · rcases getLengthWork_cases s with ⟨e, _, h⟩ | ⟨_, h⟩ <;> simp [h]
  · rcases measureWork_cases s l with ⟨e, _, h⟩ | ⟨_, _, h⟩ | ⟨w, _, _, _, h⟩ | ⟨w, _, _, _, h⟩ <;> simp [h]
  · exact raiseError_tainted _ _ _

theorem storedHeader_tainted (s : State) (w : Word) : (s.storedHeader w).tainted = s.tainted := by
  rcases storedHeader_cases s w with ⟨_, h⟩ | ⟨_, _, h⟩ | ⟨_, _, h⟩ <;> simp [h]

theorem huffmanHeader_tainted (s : State) (w : Word) : (s.huffmanHeader w).tainted = s.tainted := by
  rcases huffmanHeader_cases s w with ⟨_, h⟩ | ⟨_, h⟩ <;> simp [h]

theorem storedBlockWork_tainted {s t : State} (h : s.storedBlockWork = .next t) : t.tainted = s.tainted := by
  rcases storedBlockWork_next h with ⟨c, info, rfl⟩ | ⟨e, r1, r2, mem, r3, _, _, _, rfl⟩ <;> simp

theorem compressedBlockWork_tainted {s t : State} (h : s.compressedBlockWork = .next t) : t.tainted = s.tainted := by
  rcases compressedBlockWork_next h with ⟨c, info, rfl⟩ | ⟨lens, r1, tree, f, r2, _, _, _, rfl⟩
  · exact raiseError_tainted _ _ _
  · rfl

theorem codeLength_tainted {s t : State} {q : RleSeq} {c j sym x : Nat} (hp : s.phase = .rle q c j)
    (h : s.codeLength sym x = .next t) : t.tainted = s.tainted := by
  rcases codeLength_next hp h with ⟨u, e, info, rfl, hu⟩ |
    ⟨lens, k, _, ⟨_, rfl⟩ | ⟨_, _, tree, f, r, _, _, rfl⟩ | ⟨_, _, tree, _, rfl⟩⟩
  · rw [raiseError_tainted, hu]
  · rfl
  · rfl
  · exact symbolLoop_tainted _

theorem distanceWork_tainted (s : State) (len c x : Nat) : (s.distanceWork len c x).tainted = s.tainted := by
  rcases distanceWork_cases s len c x with ⟨info, u, h, hu, _⟩ | ⟨d, cache, _, _, _, h⟩
  · rw [h, raiseError_tainted, hu]
  · simp [h]

theorem exec_tainted {i : Instr} {s t : State} (h : exec i s = .next t) : t.tainted = s.tainted := by
  rcases exec_next_cases h with ⟨_, hw⟩ | ⟨_, ⟨w, rfl⟩ | ⟨w, rfl⟩⟩ | ⟨_, hw | hw⟩ | ⟨⟨q, c, j, hp⟩, sym, x, hw⟩ |
    ⟨_, ⟨b, rfl⟩ | ⟨n, rfl⟩⟩ | ⟨len, _, c, x, rfl⟩
  · exact commandWork_tainted hw
  · exact storedHeader_tainted s w
  · exact huffmanHeader_tainted s w
  · exact storedBlockWork_tainted hw
  · exact compressedBlockWork_tainted hw
  · exact codeLength_tainted hp hw
  · simp [State.literal]
  · rfl
  · exact distanceWork_tainted s len c x

/-! The end of a spoiled command. -/

/-- A spoiled command goes on with its registers unchanged, or ends in the one way that U6 gives, whether its work raised an
error or completed. -/
theorem InstrEnd.of_tainted {s t : State} (h : InstrEnd s t) (ht : t.tainted = true) :
    t.regs = s.regs ∨ ∃ u : State, t = u.endSpoiled := by
  cases h with
  | goesOn h _ => exact .inl h.regs
  | raised h e info => exact .inr ⟨_, if_pos ((raiseError_tainted _ e info).symm.trans ht)⟩
  | completed h len a b => exact .inr ⟨_, if_pos ((complete_tainted _ len a b).symm.trans ht)⟩

/-- Settles O17: of the ways in which a spoiled instruction ends, only that of U6 clears `BUSY`. -/
theorem spoiledCommandEndLeavesDoneOrErr : Obligations.SpoiledCommandEndLeavesDoneOrErr := by
  unfold Obligations.SpoiledCommandEndLeavesDoneOrErr
  intro i s t hd htaint hbusy h hidle
  have hend := exec_end h
  have hlat := hend.lat
  have hout := hend.sameOutside hd
  rcases hend.of_tainted ((exec_tainted h).trans htaint) with hregs | ⟨u, rfl⟩
  · rw [hregs, hbusy] at hidle; cases hidle
  · exact ⟨endSpoiled_phase u, rfl, flagsAtSpoiledEnd_errcode_le _ _, hlat, hout⟩

/-! The host's accesses to host memory. -/

theorem step_memWrite {s : State} {rest : List Input} {a : Word} {v : Byte} (h : s.inputs = .memWrite a v :: rest) :
    step s = .next { s with
      inputs := rest, mem := s.mem.write a v, tainted := s.tainted || s.inBusySrc a || s.inBusyDst a } := by
  have hs : step s = hostMemWrite a v { s with inputs := rest } := by simp only [step, h]
  exact hs

/-- A host read answers its byte, or a free value from a range that a running command writes (U5). -/
theorem step_memRead {s : State} {rest : List Input} {a : Word} (h : s.inputs = .memRead a :: rest) :
    ∃ v fresh, step s = .next { s with inputs := rest, hostData := v, fresh := fresh } ∧
      (s.inBusyDst a = false → v = (s.mem.read a).setWidth 32) := by
  have hs : step s = hostMemRead a { s with inputs := rest } := by simp only [step, h]
  rw [hs]
  unfold hostMemRead
  by_cases hb : s.inBusyDst a = true
  · exact ⟨_, _, if_pos hb, fun hn => by rw [hn] at hb; cases hb⟩
  · exact ⟨_, _, if_neg hb, fun _ => rfl⟩

/-- An idle engine has no range to protect. -/
theorem inBusy_of_idle {s : State} (h : s.regs.busy = false) (a : Word) :
    s.inBusySrc a = false ∧ s.inBusyDst a = false := by
  simp [State.inBusySrc, State.inBusyDst, h]

/-- The ranges of a running command (R201, R213; log entry 6). -/
theorem inBusy_of_range {s : State} {a : Word} (hb : s.regs.busy = true)
    (h : (s.lat.op ∈ [1, 2, 3, 4] ∧ inRange a s.lat.src s.lat.n = true) ∨
      (s.lat.op ∈ [1, 2] ∧ inRange a s.lat.dst s.lat.cap = true)) :
    s.inBusySrc a = true ∨ s.inBusyDst a = true := by
  rcases h with ⟨hop, hin⟩ | ⟨hop, hin⟩
  · exact .inl (by simpa [State.inBusySrc, readsSrc, hb, hin] using hop)
  · exact .inr (by simpa [State.inBusyDst, writesDst, hb, hin] using hop)

/-- Settles O16: while idle no range is protected, so both accesses are exact; a write into a protected range sets `tainted`
whatever it was; and a read answers data and draws a free value at most. -/
theorem hostMemoryAccess : Obligations.HostMemoryAccess := by
  unfold Obligations.HostMemoryAccess
  refine ⟨fun s rest a v h hidle => ?_, fun s rest a v h hbusy hrange => ?_, fun s rest a h => ?_⟩
  · obtain ⟨hsrc, hdst⟩ := inBusy_of_idle hidle a
    obtain ⟨data, fresh, hread, hdata⟩ := step_memRead (a := a) (rest := rest)
      (s := { s with inputs := .memRead a :: rest, mem := s.mem.write a v }) rfl
    refine ⟨_, _, ?_, hread, ?_, rfl, read_write_same _ _ _, fun x hx => read_write_other _ _ hx, rfl⟩
    · rw [step_memWrite h, hsrc, hdst, Bool.or_false, Bool.or_false]
    · rw [hdata hdst, read_write_same]
  · have htaint : (s.tainted || s.inBusySrc a || s.inBusyDst a) = true := by
      rcases inBusy_of_range hbusy hrange with hb | hb <;> simp [hb]
    rw [step_memWrite h, htaint]
  · obtain ⟨data, fresh, hread, _⟩ := step_memRead h
    exact ⟨_, hread, rfl, rfl, rfl, rfl⟩

end Sys2Proof.Proofs

/-! PROOFS. Encoding and decoding (30_encoding.md R301 to R316): the token word is the symbol with the extra value above it,
each instruction's encoding is read back, and each entry of the token tables has the one encoding of its place. -/

namespace Sys2Proof.Proofs

open Sys2Proof Sys2Proof.Machine Sys2Proof.Laws

/-! Words and bytes. -/

/-- The symbol and the extra value lie side by side in the token word. -/
theorem decodeWord_encodeWord {i : Instr} (h : EncodedInRange.Statement i) :
    decodeWord (encode i).fmt (encodeWord i) = decodeSym (encode i).fmt (encode i).sym (encode i).x := by
  have hsym := h.1
  rw [decodeWord, encodeWord, Nat.add_mul_mod_self_left, Nat.mod_eq_of_lt hsym,
    Nat.add_mul_div_left _ _ (Nat.two_pow_pos _), Nat.div_eq_of_lt hsym, Nat.zero_add]

theorem leNat_leBytes (k w : Nat) : leNat (leBytes k w) = w % 256 ^ k := by
  induction k generalizing w with
  | zero => simp [leBytes, leNat, Nat.mod_one]
  | succ k ih => rw [leBytes, leNat, ih, Nat.pow_succ', Nat.mod_mul, BitVec.toNat_ofNat]

/-- A symbol and its extra bits fit four bytes: only commands and headers have 32-bit symbols, and those have no extra
bits. -/
theorem symBits_add_extraBits_le (f : Format) (sym : Nat) : f.symBits + extraBits f sym ≤ 32 := by
  have hx := extraBits_le f sym
  cases f with
  | cmdw | hdr => exact Nat.le_refl 32
  | btype | clsym | llsym | dsym => simp only [Format.symBits]; omega

theorem encodeWord_lt {i : Instr} (h : EncodedInRange.Statement i) : encodeWord i < 2 ^ 32 := by
  obtain ⟨hsym, hx⟩ := h
  calc encodeWord i
      < 2 ^ (encode i).fmt.symBits * ((encode i).x + 1) := by rw [encodeWord, Nat.mul_succ]; omega
    _ ≤ 2 ^ (encode i).fmt.symBits * 2 ^ extraBits (encode i).fmt (encode i).sym := Nat.mul_le_mul_left _ hx
    _ = 2 ^ ((encode i).fmt.symBits + extraBits (encode i).fmt (encode i).sym) := (Nat.pow_add ..).symm
    _ ≤ 2 ^ 32 := Nat.pow_le_pow_right (by decide) (symBits_add_extraBits_le _ _)

theorem decodeBytes_encodeBytes {i : Instr} (h : EncodedInRange.Statement i) (f : Format) :
    decodeBytes f (encodeBytes i) = decodeWord f (encodeWord i) := by
  have hlow : encodeWord i % 256 ^ 4 = encodeWord i := Nat.mod_eq_of_lt (encodeWord_lt h)
  rw [decodeBytes, encodeBytes, leNat_leBytes, hlow]

/-! Every instruction's encoding is read back. -/

/-- The encoding of `i` fits its fields, and its symbol and extra value decode to `i`. -/
structure ReadsBack (i : Instr) : Prop where
  inRange : EncodedInRange.Statement i
  decodes : decodeSym (encode i).fmt (encode i).sym (encode i).x = .ok i

/-- A token whose operand is its extra value, at the width that its symbol has: the decoder's entry for the symbol is the same
instruction of any extra value, cut to that width. -/
theorem ReadsBack.of_width {w sym : Nat} {f : Format} {c : BitVec w → Instr} {y : BitVec w}
    (henc : encode (c y) = Token.mk f sym y.toNat) (hsym : sym < 2 ^ f.symBits) (hw : extraBits f sym = w)
    (hdec : ∀ x, x < 2 ^ extraBits f sym → decodeSym f sym x = .ok (c (BitVec.ofNat w x))) : ReadsBack (c y) where
  inRange := EncodedInRange.of_width henc hsym hw
  decodes := by rw [henc, hdec _ (hw ▸ y.isLt), BitVec.ofNat_toNat, BitVec.setWidth_eq]

theorem decodeSym_hdr (h : Word) : decodeSym .hdr h.toNat 0 = .ok (decodeHeader h) := by
  simp [decodeSym, extraBits]

theorem decodeHeader_of_negative {h : Word} (hneg : h.msb = true) : decodeHeader h = .hdrStored h := by
  have hne : h ≠ 0 := fun h0 => by rw [h0] at hneg; cases hneg
  rw [decodeHeader, if_neg hne, if_pos hneg]

theorem decodeHeader_of_positive {h : Word} (hpos : h.msb = false) (hne : h ≠ 0) : decodeHeader h = .hdrHuffman h := by
  rw [decodeHeader, if_neg hne, if_neg (by simp [hpos])]

theorem decodeSym_literal (b : Byte) : decodeSym .llsym b.toNat 0 = .ok (.lit b) := by
  have hb : b.toNat < 256 := b.isLt
  simp [decodeSym, extraBits, hb]

/-- Every instruction by the kind of its operand: a level, a header, a byte, an extra value, or none. -/
theorem readsBack_of_wellFormed {i : Instr} (hi : i.wellFormed = true) : ReadsBack i := by
  cases i with
  | compress level => exact ⟨EncodedInRange.compress level, by cases level <;> decide⟩
  | measure level => exact ⟨EncodedInRange.measure level, by cases level <;> decide⟩
  | hdrStored h =>
    exact ⟨EncodedInRange.hdrStored h, (decodeSym_hdr h).trans (congrArg _ (decodeHeader_of_negative hi))⟩
  | hdrHuffman h =>
    obtain ⟨hpos, hne⟩ : h.msb = false ∧ h ≠ 0 := by simpa [Instr.wellFormed] using hi
    exact ⟨EncodedInRange.hdrHuffman h, (decodeSym_hdr h).trans (congrArg _ (decodeHeader_of_positive hpos hne))⟩
  | lit b => exact ⟨EncodedInRange.lit b, decodeSym_literal b⟩
  | clRep3_4 x | clRep5_8 x | clRep9_16 x | clRep17_144 x | len16 x | len17 x | len18 x | len19 x | len20 x
  | len21 x | len22 x | len23 x | len24 x | len25 x | len26 x | len27 x | len28 x | len29 x | len30 x | len31 x
  | len32 x | len33 x | len34 x | len35 x | len36 x | len37 x | len38 x | len39 x | len40 x | len41 x | len42 x
  | len43 x | len44 x | len45 x | len46 x | len47 x | len48 x | len49 x | len50 x | len51 x | len52 x | len53 x
  | len54 x | len55 x | len56 x | len57 x | len58 x | len59 x | len60 x | len61 x | len62 x | len63 x | dist9 x
  | dist10 x | dist11 x | dist12 x | dist13 x | dist14 x | dist15 x | dist16 x | dist17 x | dist18 x | dist19 x
  | dist20 x | dist21 x | dist22 x | dist23 x | dist24 x | dist25 x | dist26 x | dist27 x | dist28 x | dist29 x
  | dist30 x | dist31 x | dist32 x | dist33 x | dist34 x | dist35 x | dist36 x | dist37 x | dist38 x | dist39 x
  | dist40 x | dist41 x | dist42 x | dist43 x | dist44 x | dist45 x | dist46 x | dist47 x | dist48 x | dist49 x
  | dist50 x | dist51 x | dist52 x | dist53 x | dist54 x | dist55 x | dist56 x | dist57 x | dist58 x | dist59 x
  | dist60 x | dist61 x | dist62 x | dist63 x =>
    exact .of_width rfl (by decide) (by decide) (fun _ hx => by exact if_neg (Nat.not_le.mpr hx))
  | _ => exact ⟨by unfold EncodedInRange.Statement; decide, rfl⟩

/-- Settles O45: an instruction's encoding is read back, from its word and from the four bytes that hold the word. -/
theorem decodeOfEncode : Obligations.DecodeOfEncode := by
  unfold Obligations.DecodeOfEncode
  intro i hi
  obtain ⟨hrange, hdec⟩ := readsBack_of_wellFormed hi
  have hword := (decodeWord_encodeWord hrange).trans hdec
  exact ⟨hword, (decodeBytes_encodeBytes hrange _).trans hword⟩

/-! What decodes has one encoding. -/

theorem map_encode_clInstrs (x : Nat) :
    (clInstrs x).map encode = (List.range 20).map fun t => Token.mk .clsym t (x % 2 ^ runExtra t) := by
  simp [clInstrs, clInstrsPart0, encode, List.range, List.range.loop, runExtra, runTable, Nat.mod_one]

theorem map_encode_lenInstrs (x : Nat) :
    (lenInstrs x).map encode = (List.range 64).map fun k => Token.mk .llsym (256 + k) (x % 2 ^ lenExtra k) := by
  simp [lenInstrs, lenInstrsPart0, lenInstrsPart1, encode, List.range, List.range.loop, lenExtra, lenTable,
    lenTablePart0, lenTablePart1, Nat.mod_one]

theorem map_encode_distInstrs (x : Nat) :
    (distInstrs x).map encode = (List.range 64).map fun c => Token.mk .dsym c (x % 2 ^ distExtra c) := by
  simp [distInstrs, distInstrsPart0, distInstrsPart1, encode, List.range, List.range.loop, distExtra, distTable,
    distTablePart0, distTablePart1, Nat.mod_one]

/-- An entry of a token table is well-formed, and its encoding is that of its place. -/
theorem encode_of_entry {l : List Instr} {n k : Nat} {token : Nat → Token} {i : Instr}
    (hwf : l.all Instr.wellFormed = true) (hl : l.map encode = (List.range n).map token) (hi : l[k]? = some i) :
    i.wellFormed = true ∧ encode i = token k := by
  have hlen : l.length = n := by simpa using congrArg List.length hl
  have hk : k < n := hlen ▸ (List.getElem?_eq_some_iff.mp hi).1
  have hkth : (l.map encode)[k]? = ((List.range n).map token)[k]? := by rw [hl]
  refine ⟨List.all_eq_true.mp hwf i (List.mem_of_getElem? hi), ?_⟩
  simpa [hi, List.getElem?_range hk] using hkth

/-- The three forms of a header (R302). -/
theorem encode_decodeHeader (h : Word) :
    (decodeHeader h).wellFormed = true ∧ encode (decodeHeader h) = Token.mk .hdr h.toNat 0 := by
  by_cases h0 : h = 0
  · subst h0; decide
  · cases hm : h.msb with
    | true => rw [decodeHeader_of_negative hm]; exact ⟨hm, rfl⟩
    | false => rw [decodeHeader_of_positive hm h0]; exact ⟨by simpa [Instr.wellFormed, hm] using h0, rfl⟩

/-- In every format but the command word, a symbol of its field and an extra value that decode are the encoding of what they
decode to. -/
theorem encode_of_decodeSym {f : Format} {sym x : Nat} {i : Instr} (hf : f ≠ .cmdw) (hsym : sym < 2 ^ f.symBits)
    (h : decodeSym f sym x = .ok i) : i.wellFormed = true ∧ encode i = Token.mk f sym x := by
  unfold decodeSym at h
  split at h
  · cases h
  rename_i hx
  have hx : x < 2 ^ extraBits f sym := Nat.not_le.mp hx
  cases f with
  | cmdw => exact absurd rfl hf
  | hdr =>
    cases h
    have hx0 : x = 0 := Nat.lt_one_iff.mp hx
    have hs : (BitVec.ofNat 32 sym).toNat = sym := Nat.mod_eq_of_lt hsym
    simpa [hs, hx0] using encode_decodeHeader (BitVec.ofNat 32 sym)
  | btype =>
    cases h
    have hx0 : x = 0 := Nat.lt_one_iff.mp hx
    have hs : sym = 0 ∨ sym = 1 := by simp only [Format.symBits] at hsym; omega
    subst hx0
    rcases hs with rfl | rfl <;> decide
  | clsym =>
    simp only at h
    split at h
    · rename_i j hj
      cases h
      have hm : x % 2 ^ runExtra sym = x := Nat.mod_eq_of_lt hx
      simpa only [hm] using encode_of_entry rfl (map_encode_clInstrs x) hj
    · cases h
  | llsym =>
    simp only at h
    split at h
    · rename_i hlit
      cases h
      have hx0 : x = 0 := Nat.lt_one_iff.mp (by simpa [extraBits, hlit] using hx)
      have hs : (BitVec.ofNat 8 sym).toNat = sym := Nat.mod_eq_of_lt hlit
      exact ⟨rfl, by rw [encode, hs, hx0]⟩
    · rename_i hlen
      rw [extraBits, if_neg hlen] at hx
      split at h
      · rename_i j hj
        cases h
        have hm : x % 2 ^ lenExtra (sym - 256) = x := Nat.mod_eq_of_lt hx
        have hs : 256 + (sym - 256) = sym := by omega
        simpa only [hm, hs] using encode_of_entry rfl (map_encode_lenInstrs x) hj
      · cases h
  | dsym =>
    simp only at h
    split at h
    · rename_i j hj
      cases h
      have hm : x % 2 ^ distExtra sym = x := Nat.mod_eq_of_lt hx
      simpa only [hm] using encode_of_entry rfl (map_encode_distInstrs x) hj
    · cases h

/-- Settles O46: the symbol field and the extra bits of a word that decodes are put together again by the encoding. -/
theorem encodeOfDecode : Obligations.EncodeOfDecode := by
  unfold Obligations.EncodeOfDecode
  intro f w i hf h
  obtain ⟨hwf, henc⟩ := encode_of_decodeSym hf (Nat.mod_lt _ (Nat.two_pow_pos _)) h
  refine ⟨hwf, by rw [henc], ?_⟩
  rw [encodeWord, henc]
  exact Nat.mod_add_div w _

/-- Settles O47: closed words, each read by evaluating the decoder. -/
theorem sampleWordsDecode : Obligations.SampleWordsDecode := by
  unfold Obligations.SampleWordsDecode
  decide

end Sys2Proof.Proofs

/-! PROOFS. The engine's turn (30_encoding.md R314, 49_host_commands.md R800): each phase fetches its instruction from the
latched command, the header or the stream, and the turn runs it. -/

namespace Sys2Proof.Proofs

open Sys2Proof Sys2Proof.Machine Sys2Proof.Laws

/-! The fetch of a token. -/

/-- A code, the extra bits that are read after it, and the symbol they decode to make a token. -/
theorem readToken_of {mem : Memory} {f : Format} {tree : List Slot} {p : Nat → Bool} {sym x : Nat} {r r1 r2 : Reader}
    {i : Instr} (hcode : getCode mem tree r = .ok (sym, r1))
    (hextra : getBits mem (if p sym then extraBits f sym else 0) r1 = .ok (x, r2)) (hdec : decodeSym f sym x = .ok i) :
    readToken mem f tree p r = .ok (i, r2) := by
  simp only [readToken, hcode, hextra, hdec]

theorem readBlockType_of {mem : Memory} {b : Nat} {r r1 : Reader} {i : Instr} (hbit : getBits mem 1 r = .ok (b, r1))
    (hdec : decodeSym .btype b 0 = .ok i) : readBlockType mem r = .ok (i, r1) := by
  simp only [readBlockType, hbit, hdec]

/-! The fetch of each phase (R314). -/

section
variable {s : State}

theorem fetch_of_idle (hp : s.phase = .idle) : fetch s = .stop (.next s) := by simp only [fetch, hp]

theorem fetch_of_start (hp : s.phase = .start) : fetch s = .run (decodeCommand s.lat.commandWord) s := by
  simp only [fetch, hp]

theorem fetch_of_header (hp : s.phase = .header) : fetch s = .run (decodeHeader (s.mem.readWord s.lat.src)) s := by
  simp only [fetch, hp]

theorem fetch_of_block (hp : s.phase = .block) : fetch s = fetched s (readBlockType s.mem s.rd) := by
  simp only [fetch, hp]

theorem fetch_of_rle {q : RleSeq} {count j : Nat} (hp : s.phase = .rle q count j) :
    fetch s = fetched s (readToken s.mem .clsym s.dec.clTree (fun t => decide (t < 15 ∨ 0 < j)) s.rd) := by
  simp only [fetch, hp]

theorem fetch_of_symbol (hp : s.phase = .symbol) :
    fetch s = fetched s (readToken s.mem .llsym s.dec.litTree (fun _ => true) s.rd) := by
  simp only [fetch, hp]

theorem fetch_of_dist {len : Nat} (hp : s.phase = .dist len) :
    fetch s = fetched s (readToken s.mem .dsym s.dec.distTree (fun _ => true) s.rd) := by
  simp only [fetch, hp]

end

/-- A fetch that gives an instruction without stream bits has it run in the state as it is. -/
theorem engineStep_of_run {s t : State} {i : Instr} (h : fetch s = .run i t) : engineStep s = exec i t := by
  simp only [engineStep, h]

/-- A token that was read is run in the state after its bits. -/
theorem engineStep_of_token {s : State} {token : Except Stop (Instr × Reader)} {i : Instr} {r : Reader}
    (hfetch : fetch s = fetched s token) (htoken : token = .ok (i, r)) :
    engineStep s = exec i { s with rd := r } :=
  engineStep_of_run (by rw [hfetch, htoken, fetched])

/-- The extra bits of a code-length symbol are read unless it repeats a previous length that is not there (R706). -/
theorem rleExtraBits_eq (sym j : Nat) :
    (if decide (sym < 15 ∨ 0 < j) = true then extraBits .clsym sym else 0) =
      if 15 ≤ sym ∧ j = 0 then 0 else extraBits .clsym sym := by
  by_cases h : 15 ≤ sym ∧ j = 0
  · simp [h]
  · have hyes : sym < 15 ∨ 0 < j := by omega
    simp [h, hyes]

/-- Settles O41, by the phase: the engine's turn is `engineStep` of the state with its entry taken, and that state's fetch reads
the phase, the latches, the memory and the reader of `s`. -/
theorem stepRunsDecodedInstruction : Obligations.StepRunsDecodedInstruction := by
  unfold Obligations.StepRunsDecodedInstruction
  intro s hturn
  rw [step_of_engineTurn hturn]
  refine ⟨fun hp => ?idle, fun hp => ?start, fun hp => ?header, fun hp b r i hbit hdec => ?block,
    fun q count j sym x r1 r2 i hp hcode hextra hdec => ?rle, fun sym x r1 r2 i hp hcode hextra hdec => ?symbol,
    fun len sym x r1 r2 i hp hcode hextra hdec => ?dist⟩
  case idle => rw [engineStep, fetch_of_idle (s := s.taken) hp]
  case start => exact engineStep_of_run (fetch_of_start (s := s.taken) hp)
  case header => exact engineStep_of_run (fetch_of_header (s := s.taken) hp)
  case block => exact engineStep_of_token (fetch_of_block (s := s.taken) hp) (readBlockType_of hbit hdec)
  case rle =>
    rw [← rleExtraBits_eq] at hextra
    exact engineStep_of_token (fetch_of_rle (s := s.taken) hp) (readToken_of hcode hextra hdec)
  case symbol => exact engineStep_of_token (fetch_of_symbol (s := s.taken) hp) (readToken_of hcode hextra hdec)
  case dist => exact engineStep_of_token (fetch_of_dist (s := s.taken) hp) (readToken_of hcode hextra hdec)

end Sys2Proof.Proofs

/-! PROOFS. The match finder (41_match_finder.md R400 to R413): the length of a match, insertion into the tables, and the chain
walk, whose candidates are tested against the source and so need no trust in the tables. -/

namespace Sys2Proof.Proofs

open Sys2Proof Sys2Proof.Machine Sys2Proof.Laws

/-! `MatchLen` (R406). -/

section
variable (e : Source) (c q : Nat)

theorem matchLenFrom_le (k len : Nat) : matchLenFrom e c q k len ≤ len + k := by
  induction k generalizing len with
  | zero => simp [matchLenFrom]
  | succ k ih =>
    rw [matchLenFrom]
    split
    · have := ih (len + 1)
      omega
    · omega

theorem src_eq_of_lt_matchLenFrom {k len i : Nat} (hlo : len ≤ i) (hi : i < matchLenFrom e c q k len) :
    e.src (c + i) = e.src (q + i) := by
  induction k generalizing len with
  | zero => exact absurd hi (Nat.not_lt.mpr hlo)
  | succ k ih =>
    rw [matchLenFrom] at hi
    split at hi
    next heq =>
      obtain rfl | hlt := Nat.eq_or_lt_of_le hlo
      · exact heq
      · exact ih hlt hi
    next => exact absurd hi (Nat.not_lt.mpr hlo)

/-- The scan stops at the first difference, so no longer stretch agrees. -/
theorem le_matchLenFrom {k len m : Nat} (hm : m ≤ len + k)
    (hagree : ∀ i, len ≤ i → i < m → e.src (c + i) = e.src (q + i)) : m ≤ matchLenFrom e c q k len := by
  induction k generalizing len with
  | zero => exact hm
  | succ k ih =>
    rw [matchLenFrom]
    split
    next => exact ih (by omega) (fun i hi => hagree i (by omega))
    next hne => exact Nat.not_lt.mp (fun hlt => hne (hagree len le_rfl hlt))

theorem matchLen_le (limit : Nat) : matchLen e c q limit ≤ limit :=
  (matchLenFrom_le e c q limit 0).trans_eq (Nat.zero_add limit)

theorem src_eq_of_lt_matchLen {limit i : Nat} (hi : i < matchLen e c q limit) : e.src (c + i) = e.src (q + i) :=
  src_eq_of_lt_matchLenFrom e c q (Nat.zero_le i) hi

end

/-- Settles O55: the bytewise scan by induction on the bytes left below the limit. -/
theorem matchLenIsLongest : Obligations.MatchLenIsLongest := by
  unfold Obligations.MatchLenIsLongest
  intro e c q limit
  refine ⟨matchLen_le e c q limit, fun i hi => src_eq_of_lt_matchLen e c q hi, fun len hlen hagree => ?_⟩
  exact le_matchLenFrom e c q (by omega) (fun i _ => hagree i)

/-! The tables of links. -/

/-- A write puts its entry into the table and no other. -/
theorem eq_or_mem_of_mem_linkSet {t : List (Nat × Link)} {i : Nat} {v : Link} {x : Nat × Link}
    (hx : x ∈ linkSet t i v) : x = (i, v) ∨ x ∈ t := by
  induction t with
  | nil => exact .inl (List.mem_singleton.mp hx)
  | cons a rest ih =>
    obtain ⟨j, u⟩ := a
    rw [linkSet] at hx
    split at hx
    · exact List.mem_cons.mp hx
    · split at hx
      · exact (List.mem_cons.mp hx).imp id (List.mem_cons_of_mem _)
      · obtain rfl | hx := List.mem_cons.mp hx
        · exact .inr List.mem_cons_self
        · exact (ih hx).imp id (List.mem_cons_of_mem _)

/-- A valid link that is read stands in the table: an unlisted entry reads as not valid. -/
theorem linkGet_mem {t : List (Nat × Link)} {i : Nat} (hv : (linkGet t i).valid = true) : (i, linkGet t i) ∈ t := by
  induction t with
  | nil => exact absurd hv (by simp [linkGet])
  | cons a rest ih =>
    obtain ⟨j, u⟩ := a
    rw [linkGet] at hv ⊢
    split
    next hij => exact hij ▸ List.mem_cons_self
    next hij =>
      rw [if_neg hij] at hv
      exact List.mem_cons_of_mem _ (ih hv)

/-! `Insert` (R402). -/

section
variable (e : Source) (q : Nat) (w : Work)

theorem insertPos_head (hq : q + 3 ≤ e.n) : (insertPos e q w).mf.head =
    linkSet w.mf.head (hashAt e w.mf.profile q) { valid := true, pos := BitVec.ofNat 32 q } := by
  simp only [insertPos, if_pos hq]

theorem insertPos_chain (hq : q + 3 ≤ e.n) : (insertPos e q w).mf.chain =
    linkSet w.mf.chain (q &&& w.mf.profile.chainMask) (linkGet w.mf.head (hashAt e w.mf.profile q)) := by
  simp only [insertPos, if_pos hq]

theorem insertPos_head_of_end (hq : e.n < q + 3) : (insertPos e q w).mf.head = w.mf.head := by
  simp only [insertPos, if_neg (Nat.not_le.mpr hq)]

theorem insertPos_chain_of_end (hq : e.n < q + 3) : (insertPos e q w).mf.chain = w.mf.chain := by
  simp only [insertPos, if_neg (Nat.not_le.mpr hq)]

@[simp] theorem insertPos_ins : (insertPos e q w).mf.ins = BitVec.ofNat 32 (q + 1) := by
  rw [insertPos]
  split <;> rfl

end

theorem linksBelow_mono {mf : MatchFinder} {q r : Nat} (hqr : q ≤ r) (h : mf.linksBelow q) : mf.linksBelow r :=
  fun l hl hv => Nat.lt_of_lt_of_le (h l hl hv) hqr

/-- The head that goes into the chain is a link of the tables, and the one new position is `q` itself. -/
theorem insertPos_linksBelow {e : Source} {q : Nat} {w : Work} (hq : q < 2 ^ 32) (h : w.mf.linksBelow q) :
    (insertPos e q w).mf.linksBelow (q + 1) := by
  have hold : w.mf.linksBelow (q + 1) := linksBelow_mono (Nat.le_succ q) h
  intro l hl hv
  by_cases h3 : q + 3 ≤ e.n
  · rw [insertPos_head e q w h3, insertPos_chain e q w h3] at hl
    obtain hl | hl := List.mem_append.mp hl
    · obtain rfl | hl := eq_or_mem_of_mem_linkSet hl
      · simp only [BitVec.toNat_ofNat, Nat.mod_eq_of_lt hq, Nat.lt_succ_self]
      · exact hold l (List.mem_append_left _ hl) hv
    · obtain rfl | hl := eq_or_mem_of_mem_linkSet hl
      · have hhead := hold _ (List.mem_append_left _ (linkGet_mem hv)) hv
        exact hhead
      · exact hold l (List.mem_append_right _ hl) hv
  · rw [insertPos_head_of_end e q w (Nat.not_le.mp h3), insertPos_chain_of_end e q w (Nat.not_le.mp h3)] at hl
    exact hold l hl hv

/-! The chain walk (R403 to R405, R408). -/

/-- The near-match rule, its two distances written out (R408). -/
theorem accepts_iff (len d : Nat) :
    accepts len d = true ↔ 5 ≤ len ∨ (len = 4 ∧ d ≤ 32768) ∨ (len = 3 ∧ d ≤ 4096) :=
  decide_eq_true_iff

/-- A match `(len, d)` that a search at `q` may answer: its distance is within the window and the source before `q`, its length
within the limit, its bytes agree, and the near-match rule accepts it. -/
structure RealMatch (e : Source) (q limit : Nat) (m : Nat × Nat) : Prop where
  len_le : m.1 ≤ limit
  minDist_le : 3 ≤ m.2
  dist_le_window : m.2 ≤ 524288
  dist_le : m.2 ≤ q
  agree : ∀ i, i < m.1 → e.src (q - m.2 + i) = e.src (q + i)
  accepted : accepts m.1 m.2 = true

/-- A candidate `c` that passes the walk's tests gives a real match: only the source is asked whether the bytes agree. A distance
of at least `MIN_DIST` puts `c` before `q`. -/
theorem realMatch_of_tests {e : Source} {q limit c : Nat} (hwin : ¬ Config.window < q - c) (hmin : ¬ q - c < Config.minDist)
    (hacc : accepts (matchLen e c q limit) (q - c) = true) : RealMatch e q limit (matchLen e c q limit, q - c) := by
  rw [Config.window] at hwin
  rw [Config.minDist] at hmin
  have hback : q - (q - c) = c := by omega
  refine ⟨matchLen_le e c q limit, Nat.not_lt.mp hmin, Nat.not_lt.mp hwin, Nat.sub_le q c, fun i hi => ?_, hacc⟩
  rw [hback]
  exact src_eq_of_lt_matchLen e c q hi

/-- Every match the walk answers is real when the best one so far is, whatever links the chain holds. -/
theorem walk_real {e : Source} {pr : Config.Profile} {chain : List (Nat × Link)} {q limit k : Nat} {cand : Link}
    {best : Option (Nat × Nat)} (hbest : ∀ m ∈ best, RealMatch e q limit m) :
    ∀ m ∈ walk e pr chain q limit k cand best, RealMatch e q limit m := by
  induction k generalizing cand best with
  | zero => exact hbest
  | succ k ih =>
    have hnext : ∀ b : Option (Nat × Nat), (∀ m ∈ b, RealMatch e q limit m) →
        ∀ m ∈ (if pr.chainCapacity ≤ q - cand.pos.toNat then b
          else walk e pr chain q limit k (linkGet chain (cand.pos.toNat &&& pr.chainMask)) b), RealMatch e q limit m := by
      intro b hb
      split
      · exact hb
      · exact ih hb
    simp only [walk]
    split
    next => exact hbest
    next =>
      split
      next => exact hbest
      next hwin =>
        split
        next => exact hnext best hbest
        next hmin =>
          split
          next htake =>
            have hacc := (Bool.and_eq_true_iff.mp htake).1
            have hreal : ∀ m ∈ some (matchLen e cand.pos.toNat q limit, q - cand.pos.toNat), RealMatch e q limit m := by
              rintro m ⟨⟩
              exact realMatch_of_tests hwin hmin hacc
            split
            · exact hreal
            · exact hnext _ hreal
          next => exact hnext best hbest

/-! `Find` (R403). -/

/-- What `Find` does to the state is `Insert`. -/
theorem find_work (e : Source) (q : Nat) (w : Work) : (find e q w).2 = insertPos e q w := by
  rw [find]
  split <;> rfl

theorem find_real {e : Source} {q : Nat} {w : Work} {m : Nat × Nat} (h : (find e q w).1 = some m) :
    RealMatch e q (min 17010 (e.n - q)) m := by
  rw [find] at h
  split at h
  next => cases h
  next => exact walk_real (fun _ hm => (Option.not_mem_none _ hm).elim) m h

/-- Settles O56: the match is real because the walk tests each candidate against the source; the rest is what `Insert` does. -/
theorem findReturnsRealMatch : Obligations.FindReturnsRealMatch := by
  unfold Obligations.FindReturnsRealMatch
  intro e q w hq hn
  rw [find_work]
  refine ⟨fun len d hfind => ?real, fun h3 => ⟨fun h => ?head, fun c => ?chain⟩,
    fun h3 => ⟨insertPos_head_of_end e q w h3, insertPos_chain_of_end e q w h3⟩, ?ins,
    insertPos_linksBelow (by omega)⟩
  case real =>
    obtain ⟨hlen, hmin, hwin, hd, hagree, hacc⟩ := find_real hfind
    have hnear := (accepts_iff len d).mp hacc
    simp only at hlen hmin hwin hd
    exact ⟨by omega, by omega, by omega, hmin, hwin, hd, fun i hi => (hagree i hi).symm, hnear⟩
  case head => rw [insertPos_head e q w h3, linkGet_linkSet]
  case chain => rw [insertPos_chain e q w h3, linkGet_linkSet]
  case ins =>
    rw [insertPos_ins, BitVec.toNat_ofNat]
    exact Nat.mod_eq_of_lt (by omega)

end Sys2Proof.Proofs

/-! PROOFS. The maps from lengths and distances to symbols and extra bits (42_symbol_mapping.md R450 to R463). Both tables are
contiguous bands, so the largest code whose base is at most a value is the one band that holds it; the repeat-distance cache
changes on the two sides alike. -/

namespace Sys2Proof.Proofs

open Sys2Proof Sys2Proof.Machine Sys2Proof.Laws

/-! Contiguous bands. -/

/-- The bands of the codes `low` to `top` follow each other without a gap and end at `last`. -/
structure Bands (base extra : Nat → Nat) (low top last : Nat) : Prop where
  low_le_top : low ≤ top
  next : ∀ c, low ≤ c → c < top → base (c + 1) = base c + 2 ^ extra c
  top_end : base top + 2 ^ extra top - 1 = last

/-- The codes `low` to `top` whose base is at most `v`. -/
def codesUpTo (base : Nat → Nat) (low top v : Nat) : Set Nat := {c | low ≤ c ∧ c ≤ top ∧ base c ≤ v}

section
variable {base extra : Nat → Nat} {low top last c v w : Nat}

theorem codesUpTo_mono (hvw : v ≤ w) : codesUpTo base low top v ⊆ codesUpTo base low top w :=
  fun _ ⟨hlow, htop, hbase⟩ => ⟨hlow, htop, hbase.trans hvw⟩

theorem bandBelow_isGreatest (htop : low ≤ top) (hv : base low ≤ v) :
    IsGreatest (codesUpTo base low top v) (bandBelow base low v (top + 1)) := by
  induction top, htop using Nat.le_induction with
  | base =>
    rw [bandBelow, if_pos le_rfl]
    exact ⟨⟨le_rfl, le_rfl, hv⟩, fun _ hj => hj.2.1⟩
  | succ k hk ih =>
    rw [bandBelow, if_neg (by omega)]
    split
    next hbase => exact ⟨⟨by omega, le_rfl, hbase⟩, fun _ hj => hj.2.1⟩
    next hbase =>
      obtain ⟨⟨hlow, htop, hle⟩, hmax⟩ := ih
      refine ⟨⟨hlow, by omega, hle⟩, fun j ⟨hlowj, htopj, hlej⟩ => ?_⟩
      have hne : j ≠ k + 1 := fun e => hbase (e ▸ hlej)
      exact hmax ⟨hlowj, by omega, hlej⟩

theorem Bands.end_le_base (h : Bands base extra low top last) (hc : low ≤ c) {j : Nat} (hcj : c + 1 ≤ j) (hj : j ≤ top) :
    base c + 2 ^ extra c ≤ base j := by
  induction j, hcj using Nat.le_induction with
  | base => exact (h.next c hc hj).ge
  | succ k hk ih =>
    calc base c + 2 ^ extra c ≤ base k := ih (Nat.le_of_succ_le hj)
      _ ≤ base k + 2 ^ extra k := Nat.le_add_right _ _
      _ = base (k + 1) := (h.next k (by omega) hj).symm

/-- A value inside the band of `c` belongs to `c`: the next band begins past it. -/
theorem Bands.isGreatest_of_lt (h : Bands base extra low top last) (hc : low ≤ c) (htop : c ≤ top) {x : Nat}
    (hx : x < 2 ^ extra c) : IsGreatest (codesUpTo base low top (base c + x)) c := by
  refine ⟨⟨hc, htop, Nat.le_add_right _ _⟩, fun j ⟨_, htopj, hlej⟩ => ?_⟩
  by_contra hcj
  have hend := h.end_le_base hc (not_le.mp hcj) htopj
  omega

/-- The greatest code of a value holds it: the next band, or the end of the table, lies past it. -/
theorem Bands.lt_end_of_isGreatest (h : Bands base extra low top last) (hg : IsGreatest (codesUpTo base low top v) c)
    (hv : v ≤ last) : v < base c + 2 ^ extra c := by
  obtain ⟨⟨hlow, htop, _⟩, hmax⟩ := hg
  rcases htop.eq_or_lt with rfl | hlt
  · have hend := h.top_end
    have hpos := Nat.two_pow_pos (extra c)
    omega
  · by_contra hend
    have hnext := h.next c hlow hlt
    have hle : c + 1 ≤ c := hmax ⟨by omega, hlt, by omega⟩
    omega

theorem Bands.base_low_le (h : Bands base extra low top last) (hc : low ≤ c) (htop : c ≤ top) : base low ≤ base c := by
  rcases hc.eq_or_lt with rfl | hlt
  · exact le_rfl
  · exact (Nat.le_add_right _ _).trans (h.end_le_base le_rfl hlt htop)

theorem Bands.bandBelow_add (h : Bands base extra low top last) (hc : low ≤ c) (htop : c ≤ top) {x : Nat}
    (hx : x < 2 ^ extra c) : bandBelow base low (base c + x) (top + 1) = c :=
  have hbase : base low ≤ base c + x := (h.base_low_le hc htop).trans (Nat.le_add_right _ _)
  (bandBelow_isGreatest h.low_le_top hbase).unique (h.isGreatest_of_lt hc htop hx)

end

/-! The two tables (R450, R455). -/

theorem lenBase_succ : ∀ c < 63, lenBase (c + 1) = lenBase c + 2 ^ lenExtra c := by decide

theorem distBase_succ : ∀ c < 63, 3 ≤ c → distBase (c + 1) = distBase c + 2 ^ distExtra c := by decide

theorem lenBands : Bands lenBase lenExtra 0 63 17010 := ⟨by decide, fun c _ hc => lenBase_succ c hc, by decide⟩

theorem distBands : Bands distBase distExtra 3 63 524288 :=
  ⟨by decide, fun c h3 hc => distBase_succ c hc h3, by decide⟩

/-- Settles O48: both tables are contiguous bands, and the counts of extra bits are read off them. -/
theorem symbolTablesAreContiguous : Obligations.SymbolTablesAreContiguous := by
  unfold Obligations.SymbolTablesAreContiguous
  refine ⟨⟨by decide, fun i => lenBands.next i i.zero_le, lenBands.top_end, by decide⟩,
    by decide, by decide, by decide, by decide, by decide, distBands.next, distBands.top_end⟩

/-! `LenCode` and `DistCode` (R451, R456). -/

theorem lenCode_isGreatest {len : Nat} (h3 : 3 ≤ len) : IsGreatest (codesUpTo lenBase 0 63 len) (lenCode len).1 :=
  bandBelow_isGreatest lenBands.low_le_top h3

theorem distCode_isGreatest {d : Nat} (h3 : 3 ≤ d) : IsGreatest (codesUpTo distBase 3 63 d) (distCode d).1 :=
  bandBelow_isGreatest distBands.low_le_top h3

theorem lenBase_add_lenCode {len : Nat} (h3 : 3 ≤ len) : lenBase (lenCode len).1 + (lenCode len).2 = len :=
  Nat.add_sub_of_le (lenCode_isGreatest h3).1.2.2

theorem distBase_add_distCode {d : Nat} (h3 : 3 ≤ d) : distBase (distCode d).1 + (distCode d).2 = d :=
  Nat.add_sub_of_le (distCode_isGreatest h3).1.2.2

theorem lenCode_extra_lt {len : Nat} (h3 : 3 ≤ len) (hlen : len ≤ 17010) :
    (lenCode len).2 < 2 ^ lenExtra (lenCode len).1 := by
  have hend := lenBands.lt_end_of_isGreatest (lenCode_isGreatest h3) hlen
  have hsum := lenBase_add_lenCode h3
  omega

theorem distCode_extra_lt {d : Nat} (h3 : 3 ≤ d) (hd : d ≤ 524288) :
    (distCode d).2 < 2 ^ distExtra (distCode d).1 := by
  have hend := distBands.lt_end_of_isGreatest (distCode_isGreatest h3) hd
  have hsum := distBase_add_distCode h3
  omega

theorem lenCode_lenBase_add {i x : Nat} (hi : i < 64) (hx : x < 2 ^ lenExtra i) : lenCode (lenBase i + x) = (i, x) := by
  have hcode : bandBelow lenBase 0 (lenBase i + x) 64 = i :=
    lenBands.bandBelow_add i.zero_le (Nat.le_of_lt_succ hi) hx
  simp only [lenCode, hcode, Nat.add_sub_cancel_left]

theorem distCode_distBase_add {c x : Nat} (h3 : 3 ≤ c) (hc : c < 64) (hx : x < 2 ^ distExtra c) :
    distCode (distBase c + x) = (c, x) := by
  have hcode : bandBelow distBase 3 (distBase c + x) 64 = c :=
    distBands.bandBelow_add h3 (Nat.le_of_lt_succ hc) hx
  simp only [distCode, hcode, Nat.add_sub_cancel_left]

theorem lenCode_mono {a b : Nat} (h3 : 3 ≤ a) (hab : a ≤ b) : (lenCode a).1 ≤ (lenCode b).1 :=
  (lenCode_isGreatest h3).mono (lenCode_isGreatest (h3.trans hab)) (codesUpTo_mono hab)

/-- Settles O49: a value's code is the greatest of the codes whose bands begin at or before it, which is the band that holds
it. -/
theorem symbolCodesAreBijections : Obligations.SymbolCodesAreBijections := by
  unfold Obligations.SymbolCodesAreBijections
  refine ⟨fun len h3 hlen => ?len, fun _ _ => lenCode_lenBase_add, fun _ _ h3 hab _ => lenCode_mono h3 hab,
    fun d h3 hd => ?dist, fun _ _ => distCode_distBase_add⟩
  case len =>
    obtain ⟨⟨_, htop, hbase⟩, hmax⟩ := lenCode_isGreatest h3
    exact ⟨Nat.lt_succ_of_le htop, hbase, fun j hj hle => hmax ⟨j.zero_le, Nat.le_of_lt_succ hj, hle⟩,
      lenCode_extra_lt h3 hlen, lenBase_add_lenCode h3⟩
  case dist =>
    obtain ⟨⟨hlow, htop, hbase⟩, hmax⟩ := distCode_isGreatest h3
    exact ⟨hlow, Nat.lt_succ_of_le htop, hbase, fun j hlowj hj hle => hmax ⟨hlowj, Nat.le_of_lt_succ hj, hle⟩,
      distCode_extra_lt h3 hd, distBase_add_distCode h3⟩

/-! The cache invariant (R463). -/

/-- An entry is empty or a distance. -/
def EntryOk (r : BitVec 20) : Prop := r ≠ 0 → 3 ≤ r.toNat ∧ r.toNat ≤ 524288

/-- The invariant with one clause per entry and pair, in which the three entries play the same part. -/
theorem cache_ok_iff (c : Cache) :
    c.Ok ↔ (EntryOk c.r0 ∧ EntryOk c.r1 ∧ EntryOk c.r2) ∧
      (c.r0 = c.r1 → c.r0 = 0) ∧ (c.r0 = c.r2 → c.r0 = 0) ∧ (c.r1 = c.r2 → c.r1 = 0) := by
  constructor
  · rintro ⟨hdist, h0, h1⟩
    exact ⟨⟨hdist _ (.inl rfl), hdist _ (.inr (.inl rfl)), hdist _ (.inr (.inr rfl))⟩,
      fun e => by_contra fun h => (h0 h).1 e, fun e => by_contra fun h => (h0 h).2 e, fun e => by_contra fun h => h1 h e⟩
  · rintro ⟨⟨d0, d1, d2⟩, h01, h02, h12⟩
    refine ⟨?_, fun h => ⟨fun e => h (h01 e), fun e => h (h02 e)⟩, fun h e => h (h12 e)⟩
    rintro r (rfl | rfl | rfl)
    exacts [d0, d1, d2]

theorem cache_swap_ok {c : Cache} (h : c.Ok) : c.swap.Ok := by
  obtain ⟨⟨d0, d1, d2⟩, h01, h02, h12⟩ := (cache_ok_iff c).mp h
  exact (cache_ok_iff _).mpr ⟨⟨d1, d0, d2⟩, fun e => e.trans (h01 e.symm), h12, h02⟩

theorem cache_rotate_ok {c : Cache} (h : c.Ok) : c.rotate.Ok := by
  obtain ⟨⟨d0, d1, d2⟩, h01, h02, h12⟩ := (cache_ok_iff c).mp h
  exact (cache_ok_iff _).mpr ⟨⟨d2, d0, d1⟩, fun e => e.trans (h02 e.symm), fun e => e.trans (h12 e.symm), h01⟩

theorem cache_promote_ok {c : Cache} (h : c.Ok) (code : Nat) : (c.promote code).Ok := by
  unfold Cache.promote
  split
  · exact h
  · split
    · exact cache_swap_ok h
    · exact cache_rotate_ok h

theorem cache_push_ok {c : Cache} {d : Nat} (h : c.Ok) (h3 : 3 ≤ d) (hd : d ≤ 524288) (h0 : d ≠ c.r0.toNat)
    (h1 : d ≠ c.r1.toNat) : (c.push d).Ok := by
  obtain ⟨⟨d0, d1, _⟩, h01, _, _⟩ := (cache_ok_iff c).mp h
  have hval : (BitVec.ofNat 20 d).toNat = d := Nat.mod_eq_of_lt (by omega)
  have hnew : EntryOk (BitVec.ofNat 20 d) := fun _ => by rw [hval]; exact ⟨h3, hd⟩
  have hne : ∀ r : BitVec 20, d ≠ r.toNat → BitVec.ofNat 20 d ≠ r := fun r hr e => hr (by rw [← e, hval])
  exact (cache_ok_iff _).mpr ⟨⟨hnew, d0, d1⟩, fun e => absurd e (hne _ h0), fun e => absurd e (hne _ h1), h01⟩

/-! `MapDist` and `UnmapDist` (R460, R461). -/

/-- What `MapDist` can answer: a cache code whose entry is the distance, or a code of the table for a distance that the cache
does not hold. -/
theorem mapDist_cases (c : Cache) (d : Nat) :
    (∃ code ≤ 2, c.entry code = d ∧ mapDist c d = ((code, 0), c.promote code)) ∨
      (d ≠ c.r0.toNat ∧ d ≠ c.r1.toNat ∧ d ≠ c.r2.toNat ∧ mapDist c d = (distCode d, c.push d)) := by
  unfold mapDist
  split
  next h0 => exact .inl ⟨0, by decide, h0.symm, rfl⟩
  next h0 =>
    split
    next h1 => exact .inl ⟨1, by decide, h1.symm, rfl⟩
    next h1 =>
      split
      next h2 => exact .inl ⟨2, by decide, h2.symm, rfl⟩
      next h2 => exact .inr ⟨h0, h1, h2, rfl⟩

theorem unmapDist_of_entry {c : Cache} {code : Nat} (hcode : code ≤ 2) (hentry : c.entry code ≠ 0) (x : Nat) :
    unmapDist c code x = some (c.entry code, c.promote code) := by
  rw [unmapDist, if_pos hcode, if_neg hentry]

theorem unmapDist_of_band {code : Nat} (hcode : 3 ≤ code) (c : Cache) (x : Nat) :
    unmapDist c code x = some (distBase code + x, c.push (distBase code + x)) := by
  rw [unmapDist, if_neg (by omega)]

/-- Settles O50: a cache code names the entry that `MapDist` found and a table code gives back its distance, and either way both
sides make the same change to the cache. -/
theorem unmapDistInvertsMapDist : Obligations.UnmapDistInvertsMapDist := by
  unfold Obligations.UnmapDistInvertsMapDist
  intro c d hok h3 hd
  rcases mapDist_cases c d with ⟨code, hcode, hentry, hmap⟩ | ⟨h0, h1, _, hmap⟩
  · simp only [hmap]
    have hunmap := unmapDist_of_entry hcode (by omega : c.entry code ≠ 0) 0
    exact ⟨hentry ▸ hunmap, cache_promote_ok hok code, by omega, Nat.two_pow_pos _⟩
  · simp only [hmap]
    obtain ⟨⟨hlow, htop, _⟩, _⟩ := distCode_isGreatest h3
    have hunmap := unmapDist_of_band hlow c (distCode d).2
    rw [distBase_add_distCode h3] at hunmap
    exact ⟨hunmap, cache_push_ok hok h3 hd h0 h1, Nat.lt_succ_of_le htop, distCode_extra_lt h3 hd⟩

end Sys2Proof.Proofs

/-! PROOFS. Pairs of a symbol and a code length, the used symbols and the degenerate alphabets (43_huffman_builder.md R500,
R501, R510): every length array that `BuildLengths` returns is read off a list of such pairs, whose Kraft sum is one. -/

namespace Sys2Proof.Proofs

open Sys2Proof Sys2Proof.Machine Sys2Proof.Laws

/-! Pairs of a symbol and its length. -/

/-- The weight of a length in a Kraft sum in units of `2^-lmax`. -/
def kraftWeight (lmax l : Nat) : Nat := 2 ^ (lmax - l)

/-- Pairs (symbol, length) that give a complete code on `n` symbols: distinct symbols, lengths in 1 to `lmax`, and Kraft sum
one. -/
structure CodePairs (pairs : List (Nat × Nat)) (n lmax : Nat) : Prop where
  nodup : (pairs.map Prod.fst).Nodup
  symbol_lt : ∀ s ∈ pairs.map Prod.fst, s < n
  one_le : ∀ l ∈ pairs.map Prod.snd, 1 ≤ l
  le_max : ∀ l ∈ pairs.map Prod.snd, l ≤ lmax
  kraft : ((pairs.map Prod.snd).map (kraftWeight lmax)).sum = 2 ^ lmax

theorem assocGet_of_not_mem {pairs : List (Nat × Nat)} {s : Nat} (hs : s ∉ pairs.map Prod.fst) : assocGet pairs s = 0 := by
  induction pairs with
  | nil => rfl
  | cons p rest ih =>
    simp only [List.map_cons, List.mem_cons, not_or] at hs
    rw [assocGet, if_neg hs.1, ih hs.2]

theorem assocGet_mem {pairs : List (Nat × Nat)} {s : Nat} (hs : s ∈ pairs.map Prod.fst) :
    assocGet pairs s ∈ pairs.map Prod.snd := by
  induction pairs with
  | nil => simp at hs
  | cons p rest ih =>
    rw [assocGet]
    split
    next => exact List.mem_cons_self
    next hne => exact List.mem_cons_of_mem _ (ih ((List.mem_cons.mp hs).resolve_left hne))

/-- With distinct keys, a sum over all symbols of a weight that ignores 0 is the sum over the pairs. -/
theorem sum_assocGet {w : Nat → Nat} (hw : w 0 = 0) {pairs : List (Nat × Nat)} {n : Nat}
    (hnodup : (pairs.map Prod.fst).Nodup) (hlt : ∀ s ∈ pairs.map Prod.fst, s < n) :
    ∑ s ∈ Finset.range n, w (assocGet pairs s) = ((pairs.map Prod.snd).map w).sum := by
  induction pairs with
  | nil => simp [assocGet, hw]
  | cons p rest ih =>
    obtain ⟨t, v⟩ := p
    simp only [List.map_cons, List.nodup_cons] at hnodup
    simp only [List.map_cons, List.forall_mem_cons] at hlt
    have hsplit (s : Nat) :
        w (assocGet ((t, v) :: rest) s) = (if s = t then w v else 0) + w (assocGet rest s) := by
      rw [assocGet]
      split
      next h => rw [h, assocGet_of_not_mem hnodup.1, hw, Nat.add_zero]
      next => rw [Nat.zero_add]
    simp only [hsplit, Finset.sum_add_distrib, Finset.sum_ite_eq', Finset.mem_range, if_pos hlt.1, ih hnodup.2 hlt.2,
      List.map_cons, List.sum_cons]

theorem kraftOf_eq_sum (lmax : Nat) (lens : List Nat) :
    kraftOf lmax lens = (lens.map (fun l => if l = 0 then 0 else kraftWeight lmax l)).sum := by
  induction lens with
  | nil => rfl
  | cons l rest ih => rw [kraftOf, ih]; rfl

/-- The array of the lengths of some pairs (R500). -/
theorem CodePairs.completeCode {pairs : List (Nat × Nat)} {n lmax : Nat} (h : CodePairs pairs n lmax) :
    CompleteCode ((List.range n).map (assocGet pairs)) n lmax := by
  refine ⟨by simp, fun l hl => ?_, ?_⟩
  · obtain ⟨s, -, rfl⟩ := List.mem_map.mp hl
    by_cases hs : s ∈ pairs.map Prod.fst
    · exact h.le_max _ (assocGet_mem hs)
    · exact (assocGet_of_not_mem hs).trans_le (Nat.zero_le _)
  · let w := fun l => if l = 0 then 0 else kraftWeight lmax l
    have hw : (pairs.map Prod.snd).map w = (pairs.map Prod.snd).map (kraftWeight lmax) :=
      List.map_congr_left (fun l hl => if_neg (Nat.one_le_iff_ne_zero.mp (h.one_le l hl)))
    calc kraftOf lmax ((List.range n).map (assocGet pairs))
        = ∑ s ∈ Finset.range n, w (assocGet pairs s) := by
          rw [kraftOf_eq_sum, List.map_map]; rfl
      _ = 2 ^ lmax := by rw [sum_assocGet (w := w) rfl h.nodup h.symbol_lt, hw, h.kraft]

theorem getD_map_range {f : Nat → Nat} {n s : Nat} (hs : s < n) : ((List.range n).map f).getD s 0 = f s := by
  simp [List.getD_eq_getElem?_getD, hs]

theorem CodePairs.length_pos {pairs : List (Nat × Nat)} {n lmax s : Nat} (h : CodePairs pairs n lmax)
    (hs : s ∈ pairs.map Prod.fst) : 0 < ((List.range n).map (assocGet pairs)).getD s 0 := by
  rw [getD_map_range (h.symbol_lt s hs)]
  exact h.one_le _ (assocGet_mem hs)

/-- One code of at least one bit takes at most half of the Kraft sum, so a complete code has two or more. -/
theorem two_le_used_of_completeCode {lens : List Nat} {n lmax : Nat} (h : CompleteCode lens n lmax) (hmax : 1 ≤ lmax) :
    2 ≤ (lens.filter (fun l => decide (0 < l))).length := by
  have hbound (xs : List Nat) : kraftOf lmax xs ≤ (xs.filter (fun l => decide (0 < l))).length * 2 ^ (lmax - 1) := by
    induction xs with
    | nil => simp [kraftOf]
    | cons l rest ih =>
      rw [kraftOf]
      by_cases hl : l = 0
      · simpa [hl] using ih
      · have hle : 2 ^ (lmax - l) ≤ 2 ^ (lmax - 1) := Nat.pow_le_pow_right (by omega) (by omega)
        rw [if_neg hl, List.filter_cons_of_pos (by simpa using Nat.pos_of_ne_zero hl), List.length_cons, Nat.succ_mul]
        omega
  obtain ⟨-, -, hkraft⟩ := h
  have hpow : 2 ^ lmax = 2 * 2 ^ (lmax - 1) := by rw [← Nat.pow_succ', Nat.succ_eq_add_one, Nat.sub_add_cancel hmax]
  exact Nat.le_of_mul_le_mul_right ((hpow.symm.trans hkraft.symm).trans_le (hbound lens)) (Nat.two_pow_pos _)

/-! The used symbols (R500). -/

theorem mem_usedFrom {freq : List Nat} {first s f : Nat} :
    (s, f) ∈ usedFrom first freq ↔ first ≤ s ∧ 0 < f ∧ freq.getD (s - first) 0 = f := by
  induction freq generalizing first with
  | nil => simp [usedFrom]; omega
  | cons g rest ih =>
    have hcons : (s, f) ∈ usedFrom first (g :: rest) ↔
        (0 < g ∧ s = first ∧ f = g) ∨ (s, f) ∈ usedFrom (first + 1) rest := by
      rw [usedFrom]; split <;> simp [*]
    rw [hcons, ih]
    rcases Nat.lt_trichotomy s first with hs | rfl | hs
    · omega
    · simp [eq_comm]; omega
    · obtain ⟨d, rfl⟩ := Nat.exists_eq_add_of_lt hs
      rw [show first + d + 1 - first = d + 1 by omega, show first + d + 1 - (first + 1) = d by omega, List.getD_cons_succ]
      omega

theorem usedFrom_nodup (freq : List Nat) (first : Nat) : ((usedFrom first freq).map Prod.fst).Nodup := by
  induction freq generalizing first with
  | nil => exact List.nodup_nil
  | cons g rest ih =>
    rw [usedFrom]
    split
    next =>
      refine List.nodup_cons.mpr ⟨fun hmem => ?_, ih (first + 1)⟩
      obtain ⟨⟨s, f⟩, hp, hs⟩ := List.mem_map.mp hmem
      have hle := (mem_usedFrom.mp hp).1
      simp only at hs
      omega
    next => exact ih (first + 1)

/-- A symbol is used if and only if it occurs. -/
theorem mem_used_iff {freq : List Nat} {s : Nat} : s ∈ (usedFrom 0 freq).map Prod.fst ↔ 0 < freq.getD s 0 := by
  simp [mem_usedFrom]

theorem used_lt {freq : List Nat} {s : Nat} (hs : s ∈ (usedFrom 0 freq).map Prod.fst) : s < freq.length := by
  by_contra hge
  have hpos := mem_used_iff.mp hs
  simp [List.getD_eq_getElem?_getD, List.getElem?_eq_none (Nat.le_of_not_lt hge)] at hpos

/-! The degenerate alphabets (R501). -/

/-- The two 1-bit codes at `u` and at the symbol that R501 puts beside it. -/
def padPairs (u : Nat) : List (Nat × Nat) := [(u, 1), (if u = 0 then 1 else 0, 1)]

theorem assocGet_padPairs (u s : Nat) :
    assocGet (padPairs u) s = if s = u ∨ s = (if u = 0 then 1 else 0) then 1 else 0 := by
  simp only [padPairs, assocGet]
  by_cases h : s = u <;> simp [h]

theorem codePairs_padPairs {u n lmax : Nat} (hn : 2 ≤ n) (hu : u < n) (hmax : 1 ≤ lmax) : CodePairs (padPairs u) n lmax where
  nodup := by simp only [padPairs]; split <;> simp <;> omega
  symbol_lt := by simp only [padPairs]; split <;> simp <;> omega
  one_le := by simp [padPairs]
  le_max := by simpa [padPairs] using hmax
  kraft := by
    obtain ⟨k, rfl⟩ := Nat.exists_eq_add_of_le' hmax
    simp [padPairs, kraftWeight, Nat.pow_succ]; omega

/-- `PadLengths` with no used symbol is `PadLengths` with the one symbol 0. -/
theorem padLengths_nil (n : Nat) : padLengths [] n = (List.range n).map (assocGet (padPairs 0)) :=
  List.map_congr_left (fun s _ => (assocGet_padPairs 0 s).symm)

theorem padLengths_cons (u f : Nat) (rest : List (Nat × Nat)) (n : Nat) :
    padLengths ((u, f) :: rest) n = (List.range n).map (assocGet (padPairs u)) :=
  List.map_congr_left (fun s _ => (assocGet_padPairs u s).symm)

theorem buildLengths_of_degenerate {freq : List Nat} {n lmax : Nat} (h : (usedFrom 0 freq).length < 2) :
    (buildLengths freq n lmax).lens = padLengths (usedFrom 0 freq) n := by
  simp only [buildLengths, if_pos h]

theorem padLengths_complete {u n lmax : Nat} (hn : 2 ≤ n) (hu : u < n) (hmax : 1 ≤ lmax) :
    CompleteCode ((List.range n).map (assocGet (padPairs u))) n lmax ∧
      ∀ s, s < n → ((List.range n).map (assocGet (padPairs u))).getD s 0 =
        if s = u ∨ s = (if u = 0 then 1 else 0) then 1 else 0 :=
  ⟨(codePairs_padPairs hn hu hmax).completeCode, fun s hs => (getD_map_range hs).trans (assocGet_padPairs u s)⟩

theorem usedFrom_eq_nil {freq : List Nat} (h : ∀ s, freq.getD s 0 = 0) : usedFrom 0 freq = [] := by
  refine List.eq_nil_iff_forall_not_mem.mpr (fun ⟨s, f⟩ hmem => ?_)
  obtain ⟨-, hpos, hf⟩ := mem_usedFrom.mp hmem
  exact hpos.ne' (hf.symm.trans (h _))

theorem usedFrom_eq_singleton {freq : List Nat} {u : Nat} (hu : 0 < freq.getD u 0)
    (h : ∀ s, s ≠ u → freq.getD s 0 = 0) : usedFrom 0 freq = [(u, freq.getD u 0)] := by
  have honly : ∀ p ∈ usedFrom 0 freq, p = (u, freq.getD u 0) := by
    rintro ⟨s, f⟩ hmem
    obtain ⟨-, hpos, rfl⟩ := mem_usedFrom.mp hmem
    have hsu : s = u := by
      by_contra hne
      exact hpos.ne' (h s hne)
    rw [hsu, Nat.sub_zero]
  refine List.perm_singleton.mp ((List.perm_ext_iff_of_nodup (usedFrom_nodup freq 0).of_map (List.nodup_singleton _)).mpr ?_)
  intro p
  refine ⟨fun hp => List.mem_singleton.mpr (honly p hp), fun hp => ?_⟩
  rw [List.mem_singleton.mp hp]
  exact mem_usedFrom.mpr ⟨Nat.zero_le u, hu, rfl⟩

/-- Settles O57: with no used symbol the padding is that of the one symbol 0. -/
theorem padLengthsGivesTwoCodes : Obligations.PadLengthsGivesTwoCodes := by
  unfold Obligations.PadLengthsGivesTwoCodes
  intro freq n lmax hlen hn hmax
  refine ⟨fun hnone => ?_, fun u hu hpos hzero => ?_⟩
  · have hused := usedFrom_eq_nil hnone
    rw [buildLengths_of_degenerate (by simp [hused]), hused, padLengths_nil]
    exact padLengths_complete hn (by omega) hmax
  · have hused := usedFrom_eq_singleton hpos hzero
    rw [buildLengths_of_degenerate (by simp [hused]), hused, padLengths_cons]
    exact padLengths_complete hn hu hmax

end Sys2Proof.Proofs

/-! PROOFS. `TreeDepths` (43_huffman_builder.md R502, R503): the merges keep the Kraft sum of each subtree at one, and what
that says of the depths within, at and past the length limit (R504). -/

namespace Sys2Proof.Proofs

open Sys2Proof Sys2Proof.Machine Sys2Proof.Laws

/-! The merges of the tree construction (R502, R503). -/

/-- The Kraft sum of leaf depths, as a fraction. -/
def kraftFrac (depths : List Nat) : ℚ := (depths.map (fun d => (1 / 2 : ℚ) ^ d)).sum

/-- The leaves below a node are those of a full binary tree (R503). -/
def FullTree (x : Live) : Prop := kraftFrac (x.leaves.map Prod.snd) = 1

/-- The symbols of the leaves below some nodes. -/
def liveSymbols (live : List Live) : List Nat := (live.flatMap Live.leaves).map Prod.fst

theorem takeLeast_perm (a : Live) (rest : List Live) : ((takeLeast a rest).1 :: (takeLeast a rest).2).Perm (a :: rest) := by
  induction rest generalizing a with
  | nil => exact List.Perm.refl _
  | cons b rest ih =>
    rw [takeLeast]
    dsimp only
    split
    next => exact List.Perm.refl _
    next => exact (List.Perm.swap _ _ _).trans ((ih b).cons a)

theorem kraftFrac_append (l m : List Nat) : kraftFrac (l ++ m) = kraftFrac l + kraftFrac m := by simp [kraftFrac]

/-- One more edge above every leaf halves the sum. -/
theorem kraftFrac_succ (l : List Nat) : kraftFrac (l.map (· + 1)) = kraftFrac l / 2 := by
  induction l with
  | nil => simp [kraftFrac]
  | cons d rest ih =>
    simp only [kraftFrac, List.map_cons, List.sum_cons, pow_succ] at ih ⊢
    rw [ih]; ring

theorem mergeLive_fullTree {a b : Live} (ha : FullTree a) (hb : FullTree b) (id : Nat) : FullTree (mergeLive a b id) := by
  have hdepths : (mergeLive a b id).leaves.map Prod.snd = (a.leaves.map Prod.snd ++ b.leaves.map Prod.snd).map (· + 1) := by
    simp [mergeLive, Function.comp_def]
  unfold FullTree at *
  rw [hdepths, kraftFrac_succ, kraftFrac_append, ha, hb]
  norm_num

theorem liveSymbols_append (l m : List Live) : liveSymbols (l ++ m) = liveSymbols l ++ liveSymbols m := by
  simp [liveSymbols]

theorem liveSymbols_perm {l m : List Live} (h : l.Perm m) : (liveSymbols l).Perm (liveSymbols m) :=
  (h.flatMap_right _).map _

/-- A merge keeps the symbols, in another order. -/
theorem liveSymbols_mergeLive (a b : Live) (id : Nat) (rest : List Live) :
    (liveSymbols (rest ++ [mergeLive a b id])).Perm (liveSymbols (a :: b :: rest)) := by
  have hnew : liveSymbols [mergeLive a b id] = liveSymbols [a, b] := by
    simp [liveSymbols, mergeLive, Function.comp_def]
  rw [liveSymbols_append, hnew, ← liveSymbols_append]
  exact liveSymbols_perm List.perm_append_comm

/-- With two nodes left, two of them are merged. -/
theorem mergeAll_succ {fuel id : Nat} {live : List Live} {nodes : List Node} (hlen : 2 ≤ live.length) :
    ∃ x y remaining nodes', (x :: y :: remaining).Perm live ∧
      mergeAll (fuel + 1) id live nodes = mergeAll fuel (id + 1) (remaining ++ [mergeLive x y id]) nodes' := by
  match live with
  | [] => simp at hlen
  | [_] => simp at hlen
  | a :: b :: rest =>
    have hperm := takeLeast_perm a (b :: rest)
    rw [mergeAll]
    generalize takeLeast a (b :: rest) = least at hperm ⊢
    obtain ⟨x, others⟩ := least
    match others with
    | [] => exact absurd hperm.length_eq (by simp)
    | c :: more =>
      have hperm2 := takeLeast_perm c more
      exact ⟨x, _, _, _, (hperm2.cons x).trans hperm, rfl⟩

/-- The merges end in one node, a full tree over the same symbols. -/
theorem mergeAll_spec {fuel id : Nat} {live : List Live} {nodes : List Node} (hfuel : live.length ≤ fuel + 1)
    (hne : live ≠ []) (hfull : ∀ x ∈ live, FullTree x) :
    ∃ root, (mergeAll fuel id live nodes).1 = [root] ∧ FullTree root ∧
      (root.leaves.map Prod.fst).Perm (liveSymbols live) := by
  induction fuel generalizing id live nodes with
  | zero =>
    obtain ⟨root, rfl⟩ := List.length_eq_one_iff.mp
      (Nat.le_antisymm (by simpa using hfuel) (List.length_pos_iff.mpr hne))
    exact ⟨root, rfl, hfull root (by simp), by simp [liveSymbols]⟩
  | succ fuel ih =>
    rcases Nat.lt_or_ge live.length 2 with hlen | hlen
    · obtain ⟨root, rfl⟩ := List.length_eq_one_iff.mp
        (Nat.le_antisymm (Nat.le_of_lt_succ hlen) (List.length_pos_iff.mpr hne))
      exact ⟨root, rfl, hfull root (by simp), by simp [liveSymbols]⟩
    · obtain ⟨x, y, remaining, nodes', hperm, hstep⟩ := mergeAll_succ (fuel := fuel) (id := id) (nodes := nodes) hlen
      have hlen' := hperm.length_eq
      have hfull' : ∀ z ∈ x :: y :: remaining, FullTree z := fun z hz => hfull z (hperm.mem_iff.mp hz)
      simp only [List.forall_mem_cons] at hfull'
      obtain ⟨hx, hy, hrest⟩ := hfull'
      rw [hstep]
      obtain ⟨root, hroot, hfullroot, hsyms⟩ := ih (id := id + 1) (live := remaining ++ [mergeLive x y id]) (nodes := nodes')
        (by simp at hlen' ⊢; omega) (by simp) (by
          simp only [List.mem_append, List.mem_singleton]
          rintro z (hz | rfl)
          · exact hrest z hz
          · exact mergeLive_fullTree hx hy id)
      exact ⟨root, hroot, hfullroot, hsyms.trans ((liveSymbols_mergeLive x y id remaining).trans (liveSymbols_perm hperm))⟩

theorem liveSymbols_liveLeaves (used : List (Nat × Nat)) : liveSymbols (liveLeaves used) = used.map Prod.fst := by
  induction used with
  | nil => rfl
  | cons u rest ih => exact congrArg (u.1 :: ·) ih

/-- The leaf depths of R503: one for each used symbol, with Kraft sum one. -/
theorem treeDepths_spec {used : List (Nat × Nat)} (hne : used ≠ []) (n : Nat) :
    ((treeDepths used n).1.map Prod.fst).Perm (used.map Prod.fst) ∧ kraftFrac ((treeDepths used n).1.map Prod.snd) = 1 := by
  have hfull : ∀ x ∈ liveLeaves used, FullTree x := by
    intro x hx
    obtain ⟨u, -, rfl⟩ := List.mem_map.mp hx
    simp [FullTree, kraftFrac]
  obtain ⟨root, hroot, hfullroot, hsyms⟩ := mergeAll_spec (fuel := used.length) (id := n)
    (nodes := (liveLeaves used).map (fun x => scratchNode x 0 0)) (by simp [liveLeaves]) (by simpa [liveLeaves] using hne) hfull
  rw [liveSymbols_liveLeaves] at hsyms
  have hdepths : (treeDepths used n).1 = root.leaves := by
    unfold treeDepths
    dsimp only
    rw [hroot]
  rw [hdepths]
  exact ⟨hsyms, hfullroot⟩

/-! Depths and lengths: from the Kraft fraction to the Kraft sum in units of `2^-lmax`. -/

/-- The share of one leaf in units of `2^-lmax`. -/
theorem kraftWeight_cast {lmax d : Nat} (h : d ≤ lmax) : (kraftWeight lmax d : ℚ) = 2 ^ lmax * (1 / 2) ^ d := by
  obtain ⟨k, rfl⟩ := Nat.exists_eq_add_of_le h
  rw [kraftWeight, Nat.add_sub_cancel_left]
  push_cast
  rw [pow_add, mul_right_comm, ← mul_pow]
  norm_num

theorem sum_kraft_frac {depths : List Nat} (hone : kraftFrac depths = 1) (lmax : Nat) :
    (depths.map (fun d => (2 ^ lmax * (1 / 2) ^ d : ℚ))).sum = 2 ^ lmax := by
  rw [List.sum_map_mul_left, ← kraftFrac, hone, mul_one]

/-- In a tree of two leaves or more no leaf is the root. -/
theorem one_le_depth {depths : List Nat} (hone : kraftFrac depths = 1) (hlen : 2 ≤ depths.length) :
    ∀ d ∈ depths, 1 ≤ d := by
  intro d hd
  by_contra hzero
  obtain rfl : d = 0 := by omega
  obtain ⟨xs, ys, rfl⟩ := List.append_of_mem hd
  have hpos (l : List Nat) (hl : l ≠ []) : 0 < kraftFrac l :=
    List.sum_pos _ (by simp) (by simpa using hl)
  have hsum : kraftFrac (xs ++ 0 :: ys) = kraftFrac (xs ++ ys) + 1 := by
    simp [kraftFrac]; ring
  have hrest := hpos (xs ++ ys) (by rintro h; simp at h; simp [h.1, h.2] at hlen)
  linarith

/-- Depths within the limit are the lengths of a complete code. -/
theorem sum_kraftWeight_eq {depths : List Nat} {lmax : Nat} (hone : kraftFrac depths = 1) (hle : ∀ d ∈ depths, d ≤ lmax) :
    (depths.map (kraftWeight lmax)).sum = 2 ^ lmax := by
  have hcast : (((depths.map (kraftWeight lmax)).sum : ℕ) : ℚ) = 2 ^ lmax := by
    rw [← sum_kraft_frac hone lmax, Nat.cast_list_sum, List.map_map]
    exact congrArg List.sum (List.map_congr_left (fun d hd => kraftWeight_cast (hle d hd)))
  exact_mod_cast hcast

/-- Clamped to the limit, the depths have too large a Kraft sum (R504). -/
theorem le_sum_kraftWeight_min {depths : List Nat} (hone : kraftFrac depths = 1) (lmax : Nat) :
    2 ^ lmax ≤ (depths.map (fun d => kraftWeight lmax (min d lmax))).sum := by
  have hcast : (2 ^ lmax : ℚ) ≤ ((depths.map (fun d => kraftWeight lmax (min d lmax))).sum : ℕ) := by
    rw [← sum_kraft_frac hone lmax, Nat.cast_list_sum, List.map_map]
    refine List.sum_le_sum (fun d _ => ?_)
    rw [Function.comp_apply, kraftWeight_cast (Nat.min_le_right d lmax)]
    exact mul_le_mul_of_nonneg_left
      (pow_le_pow_of_le_one (by norm_num) (by norm_num) (Nat.min_le_left d lmax)) (by positivity)
  exact_mod_cast hcast

/-- The depths below the limit alone do not exceed it (R505). -/
theorem sum_kraftWeight_below_le {depths : List Nat} (hone : kraftFrac depths = 1) (lmax : Nat) :
    (depths.map (fun d => if d < lmax then kraftWeight lmax d else 0)).sum ≤ 2 ^ lmax := by
  have hcast : (((depths.map (fun d => if d < lmax then kraftWeight lmax d else 0)).sum : ℕ) : ℚ) ≤ 2 ^ lmax := by
    rw [← sum_kraft_frac hone lmax, Nat.cast_list_sum, List.map_map]
    refine List.sum_le_sum (fun d _ => ?_)
    rw [Function.comp_apply]
    split
    next hlt => exact (kraftWeight_cast hlt.le).le
    next => positivity
  exact_mod_cast hcast

end Sys2Proof.Proofs

/-! PROOFS. Length histograms (43_huffman_builder.md R504 to R507): sums over the levels of a histogram, the corrections of
R505, and the completeness of every code that `BuildLengths` returns (R510). -/

namespace Sys2Proof.Proofs

open Sys2Proof Sys2Proof.Machine Sys2Proof.Laws

/-! Sums over the levels of a histogram. -/

/-- `Σ blc[b] · w b` for `b` in 1..k. -/
def levelSum (w : Nat → Nat) (blc : List Nat) (k : Nat) : Nat := ∑ b ∈ Finset.Icc 1 k, blc.getD b 0 * w b

theorem levelSum_succ (w : Nat → Nat) (blc : List Nat) (k : Nat) :
    levelSum w blc (k + 1) = levelSum w blc k + blc.getD (k + 1) 0 * w (k + 1) :=
  Finset.sum_Icc_succ_top (Nat.le_add_left 1 k) _

theorem kraftUpTo_eq (blc : List Nat) (lmax k : Nat) : kraftUpTo blc lmax k = levelSum (kraftWeight lmax) blc k := by
  induction k with
  | zero => rfl
  | succ k ih => rw [kraftUpTo, levelSum_succ, ih]; rfl

theorem countEq_eq_count (b : Nat) (l : List Nat) : countEq b l = l.count b := by
  induction l with
  | nil => rfl
  | cons x rest ih => rw [countEq, ih, List.count_cons, Nat.add_comm]; simp

theorem histogram_length (lens : List Nat) (lmax : Nat) : (histogram lens lmax).length = lmax + 1 := by simp [histogram]

theorem histogram_zero (lens : List Nat) (lmax : Nat) : (histogram lens lmax).getD 0 0 = 0 := by
  rw [histogram, getD_map_range (Nat.succ_pos lmax), if_pos rfl]

theorem histogram_getD {lens : List Nat} {lmax b : Nat} (hb : 1 ≤ b) (hmax : b ≤ lmax) :
    (histogram lens lmax).getD b 0 = lens.count b := by
  rw [histogram, getD_map_range (Nat.lt_succ_of_le hmax), if_neg (by omega), countEq_eq_count]

/-- A sum over the levels of a histogram is a sum over the lengths counted in it. -/
theorem levelSum_histogram (w : Nat → Nat) (lens : List Nat) {lmax k : Nat} (hk : k ≤ lmax) :
    levelSum w (histogram lens lmax) k = (lens.map (fun l => if 1 ≤ l ∧ l ≤ k then w l else 0)).sum := by
  have hcount : levelSum w (histogram lens lmax) k = ∑ b ∈ Finset.Icc 1 k, lens.count b * w b :=
    Finset.sum_congr rfl (fun b hb => by
      obtain ⟨h1, h2⟩ := Finset.mem_Icc.mp hb
      rw [histogram_getD h1 (h2.trans hk)])
  rw [hcount]
  clear hcount
  induction lens with
  | nil => simp
  | cons l rest ih =>
    have hcons (b : Nat) : (l :: rest).count b * w b = rest.count b * w b + if l = b then w b else 0 := by
      rw [List.count_cons, Nat.add_mul]; simp
    simp only [hcons, Finset.sum_add_distrib, ih, Finset.sum_ite_eq, Finset.mem_Icc, List.map_cons, List.sum_cons,
      Nat.add_comm]

/-- The Kraft sum that `BuildTree` checks is that of R510. -/
theorem kraftSum_eq {lens : List Nat} {lmax : Nat} (h : ∀ l ∈ lens, l ≤ lmax) : kraftSum lens lmax = kraftOf lmax lens := by
  rw [kraftSum, kraftUpTo_eq, levelSum_histogram _ _ le_rfl, kraftOf_eq_sum]
  refine congrArg List.sum (List.map_congr_left (fun l hl => ?_))
  by_cases hzero : l = 0
  · simp [hzero]
  · rw [if_pos ⟨by omega, h l hl⟩, if_neg hzero]

/-! The corrections of R505. -/

theorem getD_modifyAt (f : Nat → Nat) (i j : Nat) (l : List Nat) :
    (modifyAt f i l).getD j 0 = if j = i ∧ i < l.length then f (l.getD i 0) else l.getD j 0 := by
  induction l generalizing i j with
  | nil => simp [modifyAt]
  | cons x rest ih =>
    cases i with
    | zero => cases j <;> simp [modifyAt]
    | succ i =>
      cases j with
      | zero => simp [modifyAt]
      | succ j => simpa [modifyAt] using ih i j

theorem modifyAt_length (f : Nat → Nat) (i : Nat) (l : List Nat) : (modifyAt f i l).length = l.length := by
  induction l generalizing i with
  | nil => simp [modifyAt]
  | cons x rest ih => cases i <;> simp [modifyAt, ih]

/-- `deepest` finds a populated level if there is one. -/
theorem deepest_spec {blc : List Nat} {w : Nat → Nat} {k : Nat} (h : 0 < levelSum w blc k) :
    1 ≤ deepest blc k ∧ deepest blc k ≤ k ∧ 1 ≤ blc.getD (deepest blc k) 0 := by
  induction k with
  | zero => simp [levelSum] at h
  | succ k ih =>
    rw [deepest]
    split
    next hempty =>
      rw [levelSum_succ, hempty, Nat.zero_mul] at h
      obtain ⟨h1, h2, h3⟩ := ih h
      exact ⟨h1, by omega, h3⟩
    next hfull => exact ⟨by omega, le_rfl, Nat.one_le_iff_ne_zero.mpr hfull⟩

/-- One correction moves one leaf from level `b` and one from level `lmax` to level `b + 1`. -/
theorem correctOnce_getD {blc : List Nat} {lmax : Nat} (hlen : blc.length = lmax + 1) (hb : deepest blc (lmax - 1) < lmax)
    (hpop : 1 ≤ blc.getD (deepest blc (lmax - 1)) 0) (hlast : 1 ≤ blc.getD lmax 0) (j : Nat) :
    (correctOnce lmax blc).getD j 0 + (if j = deepest blc (lmax - 1) then 1 else 0) + (if j = lmax then 1 else 0) =
      blc.getD j 0 + (if j = deepest blc (lmax - 1) + 1 then 2 else 0) := by
  unfold correctOnce
  generalize deepest blc (lmax - 1) = b at hb hpop
  simp only [getD_modifyAt, modifyAt_length, hlen]
  simp only [List.getD_eq_getElem?_getD] at hpop hlast ⊢
  rcases eq_or_ne j lmax with rfl | hj
  · have hjb : j ≠ b := hb.ne'
    by_cases hnext : j = b + 1
    · subst hnext; simp
    · simp [hnext, hjb]; omega
  · rcases eq_or_ne j b with rfl | hjb
    · simp [hj, hb.le]; omega
    · by_cases hnext : j = b + 1
      · subst hnext; simp [hj, hb]
      · simp [hj, hjb, hnext]

theorem correctOnce_length (lmax : Nat) (blc : List Nat) : (correctOnce lmax blc).length = blc.length := by
  simp [correctOnce, modifyAt_length]

/-- What the corrections start from and keep: a histogram of `m` leaves, fewer than `2^lmax`, whose Kraft sum exceeds one by
`excess` although that of the levels above the last does not exceed it. -/
structure Overfull (blc : List Nat) (lmax m excess : Nat) : Prop where
  length : blc.length = lmax + 1
  max_pos : 1 ≤ lmax
  leaves : levelSum (fun _ => 1) blc lmax = m
  leaves_lt : m < 2 ^ lmax
  kraft : levelSum (kraftWeight lmax) blc lmax = 2 ^ lmax + excess
  upper : levelSum (kraftWeight lmax) blc (lmax - 1) ≤ 2 ^ lmax

theorem Overfull.split_last {blc : List Nat} {lmax m excess : Nat} (h : Overfull blc lmax m excess) (w : Nat → Nat) :
    levelSum w blc lmax = levelSum w blc (lmax - 1) + blc.getD lmax 0 * w lmax := by
  have hsucc := levelSum_succ w blc (lmax - 1)
  rwa [Nat.sub_add_cancel h.max_pos] at hsucc

/-- The correction loop of R505 runs off neither end: the last level is populated, and so is one above it. -/
theorem Overfull.populated {blc : List Nat} {lmax m excess : Nat} (h : Overfull blc lmax m (excess + 1)) :
    1 ≤ blc.getD lmax 0 ∧ 0 < levelSum (kraftWeight lmax) blc (lmax - 1) := by
  have hkraft := h.split_last (kraftWeight lmax)
  have hleaves := h.split_last (fun _ => 1)
  have hw : kraftWeight lmax lmax = 1 := by simp [kraftWeight]
  rw [h.kraft, hw] at hkraft
  rw [h.leaves] at hleaves
  have h1 := h.upper
  have h2 := h.leaves_lt
  omega

/-- The effect of one correction on a sum over levels. -/
theorem levelSum_correctOnce (w : Nat → Nat) {blc : List Nat} {lmax k : Nat} (hlen : blc.length = lmax + 1)
    (hb1 : 1 ≤ deepest blc (lmax - 1)) (hb : deepest blc (lmax - 1) < lmax)
    (hpop : 1 ≤ blc.getD (deepest blc (lmax - 1)) 0) (hlast : 1 ≤ blc.getD lmax 0)
    (hbk : deepest blc (lmax - 1) ≤ k) (hmax : 1 ≤ lmax) :
    levelSum w (correctOnce lmax blc) k + w (deepest blc (lmax - 1)) + (if lmax ≤ k then w lmax else 0) =
      levelSum w blc k + if deepest blc (lmax - 1) + 1 ≤ k then 2 * w (deepest blc (lmax - 1) + 1) else 0 := by
  have hpoint := correctOnce_getD hlen hb hpop hlast
  generalize deepest blc (lmax - 1) = b at *
  have hsum : ∑ j ∈ Finset.Icc 1 k, ((correctOnce lmax blc).getD j 0 * w j + (if j = b then w j else 0) +
      (if j = lmax then w j else 0)) =
      ∑ j ∈ Finset.Icc 1 k, (blc.getD j 0 * w j + if j = b + 1 then 2 * w j else 0) :=
    Finset.sum_congr rfl (fun j _ => by
      have hj := congrArg (· * w j) (hpoint j)
      simpa only [Nat.add_mul, ite_mul, Nat.one_mul, Nat.zero_mul] using hj)
  simpa [Finset.sum_add_distrib, Finset.sum_ite_eq', levelSum, hb1, hbk, hmax] using hsum

/-- One correction takes one unit off the excess (R505). -/
theorem correctOnce_overfull {blc : List Nat} {lmax m excess : Nat} (h : Overfull blc lmax m (excess + 1)) :
    Overfull (correctOnce lmax blc) lmax m excess := by
  obtain ⟨hlast, hupper⟩ := h.populated
  obtain ⟨hb1, hble, hpop⟩ := deepest_spec hupper
  have hmax := h.max_pos
  have hb : deepest blc (lmax - 1) < lmax := by omega
  have hall (w : Nat → Nat) := levelSum_correctOnce w h.length hb1 hb hpop hlast hb.le hmax
  have habove := levelSum_correctOnce (kraftWeight lmax) h.length hb1 hb hpop hlast hble hmax
  have hhalf : kraftWeight lmax (deepest blc (lmax - 1)) = 2 * kraftWeight lmax (deepest blc (lmax - 1) + 1) := by
    rw [kraftWeight, kraftWeight, ← Nat.pow_succ', Nat.succ_eq_add_one]
    congr 1; omega
  have hw : kraftWeight lmax lmax = 1 := by simp [kraftWeight]
  refine ⟨(correctOnce_length lmax blc).trans h.length, hmax, ?_, h.leaves_lt, ?_, ?_⟩
  · have hcount := hall (fun _ => 1)
    rw [if_pos le_rfl, if_pos (by omega), h.leaves] at hcount
    omega
  · have hkraft := hall (kraftWeight lmax)
    rw [if_pos le_rfl, if_pos (by omega), h.kraft, hhalf, hw] at hkraft
    omega
  · rw [if_neg (by omega), hhalf] at habove
    have hle := h.upper
    split at habove <;> omega

theorem correctTimes_overfull {blc : List Nat} {lmax m excess : Nat} (h : Overfull blc lmax m excess) :
    Overfull (correctTimes lmax excess blc) lmax m 0 := by
  induction excess generalizing blc with
  | zero => exact h
  | succ e ih => exact ih (correctOnce_overfull h)

/-! Reassignment (R506). -/

theorem insertLeaf_perm (a : Nat × Nat × Nat) (l : List (Nat × Nat × Nat)) : (insertLeaf a l).Perm (a :: l) := by
  induction l with
  | nil => exact List.Perm.refl _
  | cons b rest ih =>
    rw [insertLeaf]
    split
    next => exact List.Perm.refl _
    next => exact (ih.cons b).trans (List.Perm.swap _ _ _)

theorem sortLeaves_perm (l : List (Nat × Nat × Nat)) : (sortLeaves l).Perm l := by
  induction l with
  | nil => exact List.Perm.refl _
  | cons a rest ih => exact (insertLeaf_perm a _).trans (ih.cons a)

theorem sum_lengthsDown (w : Nat → Nat) (blc : List Nat) (k : Nat) : ((lengthsDown blc k).map w).sum = levelSum w blc k := by
  induction k with
  | zero => rfl
  | succ k ih => simp [lengthsDown, levelSum_succ, ih, Nat.add_comm]

theorem mem_lengthsDown {blc : List Nat} {k l : Nat} (h : l ∈ lengthsDown blc k) : 1 ≤ l ∧ l ≤ k := by
  induction k with
  | zero => simp [lengthsDown] at h
  | succ k ih =>
    rcases List.mem_append.mp h with h | h
    · have hl := List.eq_of_mem_replicate h
      omega
    · have hl := ih h
      omega

/-- Lengths handed out from a complete histogram, one for each used symbol in any order, are a complete code. -/
theorem codePairs_zip {syms used : List Nat} {blc : List Nat} {n lmax : Nat} (hperm : syms.Perm used) (hnodup : used.Nodup)
    (hlt : ∀ s ∈ used, s < n) (hblc : Overfull blc lmax used.length 0) :
    CodePairs (syms.zip (lengthsDown blc lmax)) n lmax ∧ (syms.zip (lengthsDown blc lmax)).map Prod.fst = syms := by
  have hlen : (lengthsDown blc lmax).length = syms.length := by
    have hsum := sum_lengthsDown (fun _ => 1) blc lmax
    rw [hblc.leaves, List.map_const', List.sum_replicate, smul_eq_mul, Nat.mul_one] at hsum
    rw [hsum, hperm.length_eq]
  have hfst : (syms.zip (lengthsDown blc lmax)).map Prod.fst = syms := List.map_fst_zip hlen.ge
  have hsnd : (syms.zip (lengthsDown blc lmax)).map Prod.snd = lengthsDown blc lmax := List.map_snd_zip hlen.le
  refine ⟨⟨?_, ?_, ?_, ?_, ?_⟩, hfst⟩
  · rw [hfst]; exact hperm.nodup_iff.mpr hnodup
  · rw [hfst]; exact fun s hs => hlt s (hperm.mem_iff.mp hs)
  · rw [hsnd]; exact fun l hl => (mem_lengthsDown hl).1
  · rw [hsnd]; exact fun l hl => (mem_lengthsDown hl).2
  · rw [hsnd, sum_lengthsDown, hblc.kraft, Nat.add_zero]

/-! `LimitLengths` and `BuildLengths`. -/

/-- The histogram of the clamped depths is overfull by the excess that R504 computes. -/
theorem clamped_overfull {depths : List Nat} {lmax : Nat} (hone : kraftFrac depths = 1) (hlen : 2 ≤ depths.length)
    (hlt : depths.length < 2 ^ lmax) (hmax : 1 ≤ lmax) :
    Overfull (histogram (depths.map (fun d => min d lmax)) lmax) lmax depths.length
      (kraftUpTo (histogram (depths.map (fun d => min d lmax)) lmax) lmax lmax - 2 ^ lmax) := by
  have hpos := one_le_depth hone hlen
  have hall (w : Nat → Nat) : levelSum w (histogram (depths.map (fun d => min d lmax)) lmax) lmax =
      (depths.map (fun d => w (min d lmax))).sum := by
    rw [levelSum_histogram _ _ le_rfl, List.map_map]
    refine congrArg List.sum (List.map_congr_left (fun d hd => if_pos ?_))
    exact ⟨Nat.le_min.mpr ⟨hpos d hd, hmax⟩, Nat.min_le_right d lmax⟩
  have habove : levelSum (kraftWeight lmax) (histogram (depths.map (fun d => min d lmax)) lmax) (lmax - 1) =
      (depths.map (fun d => if d < lmax then kraftWeight lmax d else 0)).sum := by
    rw [levelSum_histogram _ _ (Nat.sub_le _ _), List.map_map]
    refine congrArg List.sum (List.map_congr_left (fun d hd => ?_))
    have h1 := hpos d hd
    rw [Function.comp_apply]
    by_cases hd : d < lmax
    · rw [if_pos hd, if_pos (by omega), Nat.min_eq_left hd.le]
    · rw [if_neg hd, if_neg (by omega)]
  refine ⟨histogram_length _ _, hmax, ?_, hlt, ?_, ?_⟩
  · rw [hall]; simp
  · rw [kraftUpTo_eq, Nat.add_sub_cancel']
    rw [hall]
    exact le_sum_kraftWeight_min hone lmax
  · rw [habove]
    exact sum_kraftWeight_below_le hone lmax

theorem limitLengths_codePairs {depths used : List (Nat × Nat)} {n lmax : Nat}
    (hsyms : (depths.map Prod.fst).Perm (used.map Prod.fst)) (hone : kraftFrac (depths.map Prod.snd) = 1)
    (hnodup : (used.map Prod.fst).Nodup) (hlt : ∀ s ∈ used.map Prod.fst, s < n) (hlen : 2 ≤ used.length)
    (hfew : used.length < 2 ^ lmax) (hmax : 1 ≤ lmax) :
    CodePairs (limitLengths depths used lmax).1 n lmax ∧
      ((limitLengths depths used lmax).1.map Prod.fst).Perm (used.map Prod.fst) := by
  have hcount : (depths.map Prod.snd).length = used.length := by
    simpa using hsyms.length_eq
  have hstart := clamped_overfull (lmax := lmax) hone (by omega) (by omega) hmax
  rw [List.map_map, hcount, ← List.length_map (f := Prod.fst)] at hstart
  have horder : ((sortLeaves (used.map (fun u => (assocGet depths u.1, u.2, u.1)))).map (fun a => a.2.2)).Perm
      (used.map Prod.fst) := by
    simpa [Function.comp_def] using (sortLeaves_perm (used.map (fun u => (assocGet depths u.1, u.2, u.1)))).map (fun a => a.2.2)
  obtain ⟨hpairs, hfst⟩ := codePairs_zip horder hnodup hlt (correctTimes_overfull hstart)
  rw [← hfst] at horder
  exact ⟨hpairs, horder⟩

/-- Every length array that `BuildLengths` returns comes from pairs that give a complete code, one pair at least for each
symbol that occurs. -/
theorem buildLengths_codePairs {freq : List Nat} {n lmax : Nat} (hlen : freq.length = n) (hn : 2 ≤ n) (hfew : n < 2 ^ lmax)
    (hmax : 1 ≤ lmax) :
    ∃ pairs, (buildLengths freq n lmax).lens = (List.range n).map (assocGet pairs) ∧ CodePairs pairs n lmax ∧
      ∀ s ∈ (usedFrom 0 freq).map Prod.fst, s ∈ pairs.map Prod.fst := by
  have hlt : ∀ s ∈ (usedFrom 0 freq).map Prod.fst, s < n := fun s hs => hlen ▸ used_lt hs
  have hnodup := usedFrom_nodup freq 0
  by_cases hused : (usedFrom 0 freq).length < 2
  · rw [buildLengths_of_degenerate hused]
    match husedFrom : usedFrom 0 freq with
    | [] => exact ⟨_, padLengths_nil n, codePairs_padPairs hn (by omega) hmax, by simp⟩
    | (u, f) :: rest =>
      obtain rfl : rest = [] := by simpa [husedFrom] using hused
      exact ⟨_, padLengths_cons u f [] n, codePairs_padPairs hn (hlt u (by simp [husedFrom])) hmax, by simp [padPairs]⟩
  · have htwo := Nat.le_of_not_lt hused
    have hcard : (usedFrom 0 freq).length ≤ n := by
      have hsub := (hnodup.subperm (fun s hs => List.mem_range.mpr (hlt s hs))).length_le
      simpa using hsub
    obtain ⟨hsyms, hone⟩ := treeDepths_spec (used := usedFrom 0 freq) (by rintro h; simp [h] at htwo) n
    by_cases hfit : (treeDepths (usedFrom 0 freq) n).1.all (fun d => decide (d.2 ≤ lmax)) = true
    · refine ⟨(treeDepths (usedFrom 0 freq) n).1, by simp only [buildLengths, if_neg hused, if_pos hfit], ?_, ?_⟩
      · have hle : ∀ d ∈ (treeDepths (usedFrom 0 freq) n).1.map Prod.snd, d ≤ lmax := by
          intro l hl
          obtain ⟨d, hd, rfl⟩ := List.mem_map.mp hl
          exact of_decide_eq_true (List.all_eq_true.mp hfit d hd)
        exact ⟨hsyms.nodup_iff.mpr hnodup, fun s hs => hlt s (hsyms.mem_iff.mp hs),
          one_le_depth hone (by simpa using htwo.trans_eq (by simpa using hsyms.length_eq.symm)), hle,
          sum_kraftWeight_eq hone hle⟩
      · exact fun s hs => hsyms.mem_iff.mpr hs
    · obtain ⟨hpairs, hperm⟩ := limitLengths_codePairs hsyms hone hnodup hlt htwo (hcard.trans_lt hfew) hmax
      exact ⟨_, by simp only [buildLengths, if_neg hused, if_neg hfit], hpairs, fun s hs => hperm.mem_iff.mpr hs⟩

theorem alphabet_bounds {n lmax : Nat} (h : (n, lmax) ∈ [(320, 14), (64, 14), (20, 7)]) :
    2 ≤ n ∧ n ≤ 320 ∧ n < 2 ^ lmax ∧ 1 ≤ lmax ∧ lmax ≤ 14 := by
  simp only [List.mem_cons, Prod.mk.injEq, List.not_mem_nil, or_false] at h
  rcases h with ⟨rfl, rfl⟩ | ⟨rfl, rfl⟩ | ⟨rfl, rfl⟩ <;> decide

/-- Settles O58: the lengths come from pairs whose Kraft sum is one, whichever of the three cases of R500 built them. -/
theorem buildLengthsIsCompleteCode : Obligations.BuildLengthsIsCompleteCode := by
  unfold Obligations.BuildLengthsIsCompleteCode
  intro freq n lmax halphabet hlen
  obtain ⟨hn, -, hfew, hmax, -⟩ := alphabet_bounds halphabet
  obtain ⟨pairs, hlens, hpairs, hcover⟩ := buildLengths_codePairs hlen hn hfew hmax
  rw [hlens]
  exact ⟨hpairs.completeCode, two_le_used_of_completeCode hpairs.completeCode hmax,
    fun s hs => hpairs.length_pos (hcover s (mem_used_iff.mpr hs))⟩

end Sys2Proof.Proofs

/-! PROOFS. The canonical code of a complete length array (43_huffman_builder.md R507): on each level the codes are the numbers
from `next[b]` on, and the numbers after them are the inner nodes of the code's tree, which has one fewer of them than codes. -/

namespace Sys2Proof.Proofs

open Sys2Proof Sys2Proof.Machine Sys2Proof.Laws

/-! The code of each symbol. -/

/-- The canonical code of a symbol. -/
def canonCode (lens : List Nat) (lmax s : Nat) : Nat := (canon lens lmax).getD s 0

/-- Codes are given out in ascending symbol order: a symbol gets the next code of its length after those of the earlier
symbols. -/
theorem assignCodes_getD {lens next : List Nat} {s : Nat} (hlen : ∀ l ∈ lens, l < next.length) (hs : lens.getD s 0 ≠ 0) :
    (assignCodes lens next).getD s 0 = next.getD (lens.getD s 0) 0 + (lens.take s).count (lens.getD s 0) := by
  induction lens generalizing next s with
  | nil => simp at hs
  | cons l rest ih =>
    simp only [List.forall_mem_cons] at hlen
    obtain ⟨hl, hrest⟩ := hlen
    cases s with
    | zero =>
      rw [List.getD_cons_zero] at hs
      simp [assignCodes, hs]
    | succ s =>
      rw [List.getD_cons_succ] at hs ⊢
      rw [assignCodes, List.take_succ_cons, List.count_cons]
      split
      next hzero =>
        rw [List.getD_cons_succ, ih hrest hs, hzero]
        generalize rest.getD s 0 = m at hs
        simp [hs.symm]
      next hpos =>
        rw [List.getD_cons_succ, ih (by simpa [modifyAt_length] using hrest) hs, getD_modifyAt]
        generalize rest.getD s 0 = m
        by_cases heq : m = l
        · simp [heq, hl]; omega
        · simp [heq, Ne.symm heq]

theorem lt_length_of_getD_ne_zero {lens : List Nat} {s : Nat} (hs : lens.getD s 0 ≠ 0) : s < lens.length := by
  by_contra hge
  exact hs (List.getD_eq_default _ _ (Nat.le_of_not_lt hge))

/-- An earlier symbol of the same length counts once more. -/
theorem count_take_lt {lens : List Nat} {s k : Nat} (hs : lens.getD s 0 ≠ 0) (hk : s < k) :
    (lens.take s).count (lens.getD s 0) < (lens.take k).count (lens.getD s 0) := by
  have hlt := lt_length_of_getD_ne_zero hs
  have hsucc : (lens.take (s + 1)).count (lens.getD s 0) = (lens.take s).count (lens.getD s 0) + 1 := by
    rw [List.take_add_one, List.getD_eq_getElem _ _ hlt]
    rw [List.getElem?_eq_getElem hlt, Option.toList_some, List.count_append, List.count_singleton_self]
  exact (Nat.lt_succ_self _).trans_le (hsucc.symm.trans_le ((List.take_sublist_take_left hk).count_le _))

/-! The levels of the code. -/

/-- The first number of level `b` that is no code: `next[b] + blc[b]`. -/
def levelEnd (blc : List Nat) (b : Nat) : Nat := firstCode blc b + blc.getD b 0

theorem firstCode_succ (blc : List Nat) (b : Nat) : firstCode blc (b + 1) = 2 * levelEnd blc b := Nat.mul_comm _ _

theorem levelEnd_mul_two_pow {blc : List Nat} {lmax k : Nat} (hzero : blc.getD 0 0 = 0) (hk : k ≤ lmax) :
    levelEnd blc k * 2 ^ (lmax - k) = levelSum (kraftWeight lmax) blc k := by
  induction k with
  | zero => simp only [levelEnd, firstCode, hzero]; simp [levelSum]
  | succ k ih =>
    have hpow : 2 ^ (lmax - k) = 2 * 2 ^ (lmax - (k + 1)) := by
      rw [← Nat.pow_succ']; congr 1; omega
    rw [levelSum_succ, ← ih (by omega), levelEnd, firstCode_succ, Nat.add_mul, hpow, kraftWeight]
    congr 1; ring

/-- The codes of a longer length begin past every shorter code's extensions. -/
theorem levelEnd_mul_le_firstCode (blc : List Nat) (d k : Nat) : levelEnd blc d * 2 ^ (k + 1) ≤ firstCode blc (d + (k + 1)) := by
  induction k with
  | zero => rw [firstCode_succ]; omega
  | succ k ih =>
    calc levelEnd blc d * 2 ^ (k + 2) = 2 * (levelEnd blc d * 2 ^ (k + 1)) := by rw [Nat.pow_succ]; ring
      _ ≤ 2 * levelEnd blc (d + (k + 1)) := Nat.mul_le_mul_left 2 (ih.trans (Nat.le_add_right _ _))
      _ = firstCode blc (d + (k + 1) + 1) := (firstCode_succ _ _).symm

section
variable {lens : List Nat} {n lmax s : Nat} (h : CompleteCode lens n lmax)
include h

theorem levelEnd_last : levelEnd (histogram lens lmax) lmax = 2 ^ lmax := by
  obtain ⟨-, hle, hkraft⟩ := h
  have hend := levelEnd_mul_two_pow (histogram_zero lens lmax) (le_refl lmax)
  rwa [← kraftUpTo_eq, ← kraftSum, kraftSum_eq hle, hkraft, Nat.sub_self, Nat.pow_zero, Nat.mul_one] at hend

theorem levelEnd_le {k : Nat} (hk : k ≤ lmax) : levelEnd (histogram lens lmax) k ≤ 2 ^ k := by
  rcases hk.eq_or_lt with rfl | hlt
  · exact (levelEnd_last h).le
  · obtain ⟨d, rfl⟩ := Nat.exists_eq_add_of_lt hlt
    have hle : levelEnd (histogram lens (k + d + 1)) k * 2 ^ (d + 1) ≤ 2 ^ k * 2 ^ (d + 1) :=
      calc _ ≤ firstCode (histogram lens (k + d + 1)) (k + (d + 1)) := levelEnd_mul_le_firstCode _ k d
        _ ≤ levelEnd (histogram lens (k + d + 1)) (k + d + 1) := Nat.le_add_right _ _
        _ = 2 ^ k * 2 ^ (d + 1) := by rw [levelEnd_last h, ← Nat.pow_add]; rfl
    exact Nat.le_of_mul_le_mul_right hle (Nat.two_pow_pos _)

theorem length_le_max (hs : lens.getD s 0 ≠ 0) : lens.getD s 0 ≤ lmax := by
  obtain ⟨-, hle, -⟩ := h
  have hlt := lt_length_of_getD_ne_zero hs
  rw [List.getD_eq_getElem _ _ hlt]
  exact hle _ (List.getElem_mem hlt)

theorem canonCode_eq (hs : lens.getD s 0 ≠ 0) :
    canonCode lens lmax s = firstCode (histogram lens lmax) (lens.getD s 0) + (lens.take s).count (lens.getD s 0) := by
  obtain ⟨-, hle, -⟩ := id h
  rw [canonCode, canon, assignCodes_getD (by simpa using fun l hl => Nat.lt_succ_of_le (hle l hl)) hs,
    getD_map_range (Nat.lt_succ_of_le (length_le_max h hs))]

theorem firstCode_le_canonCode (hs : lens.getD s 0 ≠ 0) :
    firstCode (histogram lens lmax) (lens.getD s 0) ≤ canonCode lens lmax s :=
  (canonCode_eq h hs).symm ▸ Nat.le_add_right _ _

theorem canonCode_lt_levelEnd (hs : lens.getD s 0 ≠ 0) :
    canonCode lens lmax s < levelEnd (histogram lens lmax) (lens.getD s 0) := by
  have hlt := lt_length_of_getD_ne_zero hs
  have hcount := count_take_lt hs hlt
  rw [List.take_length] at hcount
  rw [canonCode_eq h hs, levelEnd, histogram_getD (Nat.one_le_iff_ne_zero.mpr hs) (length_le_max h hs)]
  omega

theorem canonCode_lt (hs : lens.getD s 0 ≠ 0) : canonCode lens lmax s < 2 ^ lens.getD s 0 :=
  (canonCode_lt_levelEnd h hs).trans_le (levelEnd_le h (length_le_max h hs))

/-- Symbols of one length have different codes. -/
theorem canonCode_inj {t : Nat} (hs : lens.getD s 0 ≠ 0) (hlen : lens.getD t 0 = lens.getD s 0)
    (hcode : canonCode lens lmax s = canonCode lens lmax t) : s = t := by
  have ht : lens.getD t 0 ≠ 0 := hlen ▸ hs
  rw [canonCode_eq h hs, canonCode_eq h ht, hlen] at hcode
  rcases Nat.lt_trichotomy s t with hst | hst | hst
  · have hcount := count_take_lt hs hst
    omega
  · exact hst
  · have hcount := count_take_lt ht hst
    rw [hlen] at hcount
    omega

end

/-! Words: a bit string as the number with a 1 before its bits, so that strings of different lengths differ. -/

/-- The word of a symbol's code, 0 for an unused symbol. -/
def codeWord (lens : List Nat) (lmax s : Nat) : Nat :=
  if lens.getD s 0 = 0 then 0 else 2 ^ lens.getD s 0 + canonCode lens lmax s

/-- The words of the inner nodes of a code's tree: on each level the numbers after the codes. -/
def innerWords (blc : List Nat) (lmax : Nat) : Finset Nat :=
  (Finset.range lmax).biUnion (fun d => Finset.Ico (2 ^ d + levelEnd blc d) (2 ^ (d + 1)))

theorem mem_innerWords {blc : List Nat} {lmax x : Nat} :
    x ∈ innerWords blc lmax ↔ ∃ d < lmax, 2 ^ d + levelEnd blc d ≤ x ∧ x < 2 ^ (d + 1) := by
  simp [innerWords]

/-- The level of a word is the number of its bits after the first. -/
theorem level_unique {d k x : Nat} (hd : 2 ^ d ≤ x) (hd' : x < 2 ^ (d + 1)) (hk : 2 ^ k ≤ x) (hk' : x < 2 ^ (k + 1)) : d = k :=
  (Nat.log_eq_of_pow_le_of_lt_pow hd hd').symm.trans (Nat.log_eq_of_pow_le_of_lt_pow hk hk')

/-- A binary tree has one leaf more than inner nodes, level by level. -/
theorem sum_inner_add_one {blc : List Nat} {lmax k : Nat} (hzero : blc.getD 0 0 = 0)
    (hle : ∀ d ≤ lmax, levelEnd blc d ≤ 2 ^ d) (hk : k ≤ lmax) :
    ∑ d ∈ Finset.range k, (2 ^ d - levelEnd blc d) + 1 = levelSum (fun _ => 1) blc k + (2 ^ k - levelEnd blc k) := by
  induction k with
  | zero => simp only [levelEnd, firstCode, hzero]; simp [levelSum]
  | succ k ih =>
    have hih := ih (Nat.le_of_succ_le hk)
    have h1 := hle k (Nat.le_of_succ_le hk)
    have h2 := hle (k + 1) hk
    have hend : levelEnd blc (k + 1) = 2 * levelEnd blc k + blc.getD (k + 1) 0 := by rw [levelEnd, firstCode_succ]
    rw [Finset.sum_range_succ, levelSum_succ]
    rw [Nat.pow_succ] at h2 ⊢
    omega

section
variable {lens : List Nat} {n lmax s : Nat} (h : CompleteCode lens n lmax)
include h

theorem two_pow_le_codeWord (hs : lens.getD s 0 ≠ 0) :
    2 ^ lens.getD s 0 ≤ codeWord lens lmax s ∧ codeWord lens lmax s < 2 ^ (lens.getD s 0 + 1) := by
  have hlt := canonCode_lt h hs
  rw [codeWord, if_neg hs, Nat.pow_succ]
  omega

theorem card_innerWords_lt : (innerWords (histogram lens lmax) lmax).card < n := by
  obtain ⟨hlen, -, -⟩ := id h
  have hleaves : levelSum (fun _ => 1) (histogram lens lmax) lmax ≤ n := by
    rw [levelSum_histogram _ _ le_rfl, ← hlen]
    calc _ ≤ (lens.map (fun _ => 1)).sum := List.sum_le_sum (fun l _ => by split <;> omega)
      _ = lens.length := by simp
  have hsum := sum_inner_add_one (histogram_zero lens lmax) (fun d hd => levelEnd_le h hd) le_rfl
  rw [levelEnd_last h, Nat.sub_self, Nat.add_zero] at hsum
  have hcard : (innerWords (histogram lens lmax) lmax).card ≤
      ∑ d ∈ Finset.range lmax, (2 ^ d - levelEnd (histogram lens lmax) d) := by
    refine Finset.card_biUnion_le.trans (Finset.sum_le_sum (fun d _ => ?_))
    rw [Nat.card_Ico, Nat.pow_succ]
    omega
  omega

/-- No code word is an inner node. -/
theorem codeWord_not_mem_innerWords (s : Nat) : codeWord lens lmax s ∉ innerWords (histogram lens lmax) lmax := by
  intro hmem
  obtain ⟨d, hd, hlo, hhi⟩ := mem_innerWords.mp hmem
  have hpos := Nat.two_pow_pos d
  by_cases hs : lens.getD s 0 = 0
  · rw [codeWord, if_pos hs] at hlo
    omega
  · obtain ⟨hword, hword'⟩ := two_pow_le_codeWord h hs
    obtain rfl := level_unique (by omega) hhi hword hword'
    have hlt := canonCode_lt_levelEnd h hs
    rw [codeWord, if_neg hs] at hlo
    omega

/-- Every proper beginning of a code word is an inner node. -/
theorem codeWord_div_mem_innerWords {i : Nat} (hpos : 0 < codeWord lens lmax s / 2 ^ (i + 1)) :
    codeWord lens lmax s / 2 ^ (i + 1) ∈ innerWords (histogram lens lmax) lmax := by
  have hs : lens.getD s 0 ≠ 0 := by
    intro hs
    rw [codeWord, if_pos hs, Nat.zero_div] at hpos
    exact Nat.lt_irrefl 0 hpos
  obtain ⟨hword, hword'⟩ := two_pow_le_codeWord h hs
  have hmax := length_le_max h hs
  have hfirst := firstCode_le_canonCode h hs
  rw [Nat.div_pos_iff] at hpos
  have hle : i + 1 ≤ lens.getD s 0 :=
    Nat.le_of_lt_succ ((Nat.pow_lt_pow_iff_right (by decide)).mp (hpos.2.trans_lt hword'))
  obtain ⟨d, hd⟩ := Nat.exists_eq_add_of_le' hle
  rw [codeWord, if_neg hs] at hword' ⊢
  rw [hd] at hword' hfirst hmax ⊢
  refine mem_innerWords.mpr ⟨d, by omega, ?_, ?_⟩
  · rw [Nat.le_div_iff_mul_le (Nat.two_pow_pos _), Nat.add_mul, ← Nat.pow_add]
    exact Nat.add_le_add_left ((levelEnd_mul_le_firstCode _ d i).trans hfirst) _
  · rw [Nat.div_lt_iff_lt_mul (Nat.two_pow_pos _), ← Nat.pow_add]
    rwa [show d + 1 + (i + 1) = d + (i + 1) + 1 by omega]

theorem codeWord_inj {t : Nat} (hs : codeWord lens lmax s ≠ 0) (hst : codeWord lens lmax s = codeWord lens lmax t) : s = t := by
  have used (u : Nat) (hu : codeWord lens lmax u ≠ 0) : lens.getD u 0 ≠ 0 := fun hzero => hu (if_pos hzero)
  have hs' := used s hs
  have ht' := used t (hst ▸ hs)
  obtain ⟨h1, h2⟩ := two_pow_le_codeWord h hs'
  obtain ⟨h3, h4⟩ := two_pow_le_codeWord h ht'
  have hlen := level_unique h1 h2 (hst ▸ h3) (hst ▸ h4)
  refine canonCode_inj h hs' hlen.symm ?_
  rw [codeWord, codeWord, if_neg hs', if_neg ht', hlen] at hst
  exact Nat.add_left_cancel hst

end

end Sys2Proof.Proofs

/-! PROOFS. One bit of the stream (20_memory.md R204, 46_bit_reader.md R650 to R652) and the reversal of a code
(43_huffman_builder.md R508). -/

namespace Sys2Proof.Proofs

open Sys2Proof Sys2Proof.Machine Sys2Proof.Laws

/-- A payload word holds 32 consecutive bits of the stream (R203, R204). -/
theorem readWord_getLsbD (mem : Memory) (base rp : Word) {i : Nat} (hi : i < 32) :
    (mem.readWord (base + rp)).getLsbD i = streamBit mem base (8 * rp.toNat + i) := by
  have hbyte (q : Nat) : base + BitVec.ofNat 32 (rp.toNat + q) = base + rp + BitVec.ofNat 32 q := by
    rw [BitVec.ofNat_add, BitVec.ofNat_toNat, BitVec.setWidth_eq, BitVec.add_assoc]
  obtain ⟨q, m, hq, hm, rfl⟩ : ∃ q m, q < 4 ∧ m < 8 ∧ i = 8 * q + m := ⟨i / 8, i % 8, by omega, by omega, by omega⟩
  rw [streamBit, show (8 * rp.toNat + (8 * q + m)) / 8 = rp.toNat + q by omega,
    show (8 * rp.toNat + (8 * q + m)) % 8 = m by omega, hbyte, Memory.readWord]
  have hover (b : Byte) {j : Nat} (hj : 8 ≤ j) : b.getLsbD j = false := BitVec.getLsbD_of_ge b j hj
  interval_cases q
  · simp [hm, show m < 16 by omega, show m < 24 by omega, show m < 32 by omega]
  · simp [hm, show 8 + m < 32 by omega, show 8 + m < 16 by omega, show 8 + m < 24 by omega]
  · simp [hover _ (show 8 ≤ 16 + m by omega), hover _ (show 8 ≤ 16 + m - 8 by omega), hm, show 16 + m < 32 by omega,
      show 16 + m < 24 by omega]
  · simp [hover _ (show 8 ≤ 24 + m by omega), hover _ (show 8 ≤ 24 + m - 8 by omega),
      hover _ (show 8 ≤ 24 + m - 16 by omega), show 24 + m < 32 by omega]

theorem and_maskWord_one (w : Word) : (w &&& maskWord 1).toNat = (w.getLsbD 0).toNat := by
  rw [BitVec.toNat_and, maskWord_toNat (by decide), Nat.pow_one, Nat.and_one_is_mod, BitVec.getLsbD, Nat.testBit_zero]
  rcases Nat.mod_two_eq_zero_or_one w.toNat with h | h <;> simp [h]

/-- What one bit read from the stream is: its value and the reader past it. -/
def BitRead (mem : Memory) (r r' : Reader) : Prop :=
  getBits mem 1 r = .ok ((streamBit mem r.base r.position).toNat, r') ∧ r'.position = r.position + 1 ∧
    r'.Coherent mem ∧ r'.base = r.base ∧ r'.len = r.len

/-- A pending bit (R651). -/
theorem bitRead_of_pending {mem : Memory} {r : Reader} (hc : r.Coherent mem) (hk : 1 ≤ r.k.toNat) :
    BitRead mem r { r with acc := r.acc >>> 1, k := BitVec.ofNat 5 (r.k.toNat - 1) } := by
  obtain ⟨halign, hpending, hrp, hacc⟩ := hc
  have hk' : (BitVec.ofNat 5 (r.k.toNat - 1)).toNat = r.k.toNat - 1 := by
    rw [BitVec.toNat_ofNat, Nat.mod_eq_of_lt]
    exact (Nat.sub_le _ _).trans_lt r.k.isLt
  refine ⟨?_, ?_, ⟨halign, ?_, hrp, fun i => ?_⟩, rfl, rfl⟩
  · rw [getBits, if_pos hk, and_maskWord_one, hacc 0, decide_eq_true (Nat.lt_of_succ_le hk), Bool.true_and, Nat.add_zero]
  · simp only [Reader.position, hk']; omega
  · simp only [hk']; omega
  · simp only [Reader.position, hk', BitVec.getLsbD_ushiftRight, hacc]
    congr 2
    · exact propext (by omega)
    · omega

/-- With no bit pending the next word is loaded (R652). -/
theorem bitRead_of_refill {mem : Memory} {r : Reader} (hc : r.Coherent mem) (hk : r.k.toNat = 0)
    (hroom : r.rp.toNat + 4 ≤ r.len.toNat) :
    BitRead mem r { r with rp := r.rp + 4, acc := mem.readWord (r.base + r.rp) >>> 1, k := 31 } := by
  obtain ⟨halign, -, -, hacc⟩ := hc
  have hacc0 : r.acc = 0 := BitVec.eq_of_getLsbD_eq (fun i _ => by rw [hacc i, hk]; simp)
  have hrp : (r.rp + 4).toNat = r.rp.toNat + 4 := by
    rw [BitVec.toNat_add, Nat.mod_eq_of_lt]
    · rfl
    · exact hroom.trans_lt r.len.isLt
  have hk' : (31 : BitVec 5).toNat = 31 := rfl
  refine ⟨?_, ?_, ⟨?_, ?_, ?_, fun i => ?_⟩, rfl, rfl⟩
  · have hbit := and_maskWord_one (mem.readWord (r.base + r.rp))
    rw [readWord_getLsbD _ _ _ (by decide)] at hbit
    simp [getBits, refill, Nat.not_lt.mpr hroom, Reader.position, hk, hacc0, hbit]
  · simp only [Reader.position, hrp, hk, hk']; omega
  · simp only [hrp]; omega
  · simp only [hrp, hk']; omega
  · simp only [hrp]; omega
  · simp only [Reader.position, hrp, hk', BitVec.getLsbD_ushiftRight]
    by_cases hi : i < 31
    · rw [readWord_getLsbD _ _ _ (by omega), decide_eq_true hi, Bool.true_and]
      congr 1; omega
    · rw [BitVec.getLsbD_of_ge _ _ (by omega), decide_eq_false hi, Bool.false_and]

/-- `GetBits(1)` of a coherent reader with a bit left in the whole words of its payload. -/
theorem exists_bitRead {mem : Memory} {r : Reader} (hc : r.Coherent mem) (hroom : r.position + 1 ≤ r.bits) :
    ∃ r', BitRead mem r r' := by
  rcases Nat.eq_zero_or_pos r.k.toNat with hk | hk
  · obtain ⟨halign, -, -, -⟩ := id hc
    rw [Reader.position, Reader.bits] at hroom
    exact ⟨_, bitRead_of_refill hc hk (by omega)⟩
  · exact ⟨_, bitRead_of_pending hc hk⟩

theorem revBits_lt (l c : Nat) : revBits l c < 2 ^ l := by
  induction l generalizing c with
  | zero => simp [revBits]
  | succ l ih =>
    have hrest := ih (c / 2)
    have hbit : c % 2 * 2 ^ l ≤ 1 * 2 ^ l := Nat.mul_le_mul_right _ (by omega)
    rw [revBits, Nat.pow_succ]
    omega

/-- The reversal sends the code's most significant bit first (R508). -/
theorem testBit_revBits {l j : Nat} (c : Nat) (hj : j < l) : (revBits l c).testBit j = c.testBit (l - 1 - j) := by
  induction l generalizing c with
  | zero => omega
  | succ l ih =>
    rw [revBits, Nat.mul_comm, Nat.testBit_two_pow_mul_add _ (revBits_lt l _)]
    split
    next hlt =>
      rw [ih (c / 2) hlt, Nat.testBit_div_two]
      congr 1; omega
    next hge =>
      obtain rfl : j = l := by omega
      simp

theorem toNat_testBit (c i : Nat) : (c.testBit i).toNat = codeBit c i := by
  rw [codeBit, Nat.testBit_eq_decide_div_mod_eq]
  rcases Nat.mod_two_eq_zero_or_one (c / 2 ^ i) with h | h <;> simp [h]

end Sys2Proof.Proofs

/-! PROOFS. The decoder's tree of a complete code (47_block_decoder.md R709) and the walk over it (48_symbol_decoder_and_copy.md
R750 to R753). Every node of the growing tree stands for one word that is a proper beginning of a code, so the slot where a
leaf goes is free and the nodes never run out; slots once filled stay, so each code's path stands in the finished tree. -/

namespace Sys2Proof.Proofs

open Sys2Proof Sys2Proof.Machine Sys2Proof.Laws

/-! The words that a tree is built from. -/

/-- The words of a code, 0 for a symbol without one, and the words of the inner nodes of its tree: a code in which no word
begins another, with node and symbol numbers that fit a slot (R124). -/
structure TreeWords (word : Nat → Nat) (inner : Finset Nat) (n : Nat) : Prop where
  not_inner : ∀ s, word s ∉ inner
  div_inner : ∀ s i, 0 < word s / 2 ^ (i + 1) → word s / 2 ^ (i + 1) ∈ inner
  inj : ∀ s t, word s ≠ 0 → word s = word t → s = t
  inner_pos : ∀ h ∈ inner, 0 < h
  root : 1 ∈ inner
  card : inner.card < n
  n_le : n ≤ 512
  symbol_lt : ∀ s, word s ≠ 0 → s < n

theorem treeWords_of_completeCode {lens : List Nat} {n lmax : Nat} (h : CompleteCode lens n lmax) (hn : n ≤ 512)
    (hmax : 1 ≤ lmax) : TreeWords (codeWord lens lmax) (innerWords (histogram lens lmax) lmax) n where
  not_inner := codeWord_not_mem_innerWords h
  div_inner _ _ := codeWord_div_mem_innerWords h
  inj _ _ := codeWord_inj h
  inner_pos x hx := by
    obtain ⟨d, -, hd, -⟩ := mem_innerWords.mp hx
    have hpos := Nat.two_pow_pos d
    omega
  root := mem_innerWords.mpr ⟨0, hmax, by simp only [levelEnd, firstCode, histogram_zero]; decide, by decide⟩
  card := card_innerWords_lt h
  n_le := hn
  symbol_lt s hs := by
    obtain ⟨hlen, -, -⟩ := h
    exact hlen ▸ lt_length_of_getD_ne_zero (fun hzero => hs (if_pos hzero))

/-! The growing tree. -/

/-- What a slot for the word `h` may hold in a tree whose node `j` stands for the word `words[j]`. -/
def SlotFits (word : Nat → Nat) (words : List Nat) (h : Nat) : Slot → Prop
  | .empty => h ∉ words
  | .leaf s => word s.toNat = h
  | .node j => words[j.toNat]? = some h

/-- A tree under construction; `words` lists the word of each node in the order in which they were made. -/
structure TreeInv (word : Nat → Nat) (inner : Finset Nat) (n : Nat) (slots : List Slot) (words : List Nat) : Prop where
  length : slots.length = 2 * (n - 1)
  root : words[0]? = some 1
  nodup : words.Nodup
  inside : ∀ h ∈ words, h ∈ inner
  closed : ∀ h ∈ words, h ≠ 1 → h / 2 ∈ words
  slot : ∀ j h b, words[j]? = some h → b < 2 → SlotFits word words (2 * h + b) (slots.getD (2 * j + b) .empty)
  free : ∀ i, 2 * words.length ≤ i → slots.getD i .empty = .empty

/-- Every filled slot of one tree is the same in the other. -/
def Extends (old new : List Slot) : Prop := ∀ i, old.getD i .empty ≠ .empty → new.getD i .empty = old.getD i .empty

theorem Extends.refl (slots : List Slot) : Extends slots slots := fun _ _ => rfl

theorem Extends.trans {a b c : List Slot} (hab : Extends a b) (hbc : Extends b c) : Extends a c := by
  intro i hi
  have hb := hab i hi
  rw [hbc i (hb ▸ hi), hb]

theorem getD_set_slot {slots : List Slot} {i : Nat} (hi : i < slots.length) (v : Slot) (k : Nat) :
    (slots.set i v).getD k .empty = if k = i then v else slots.getD k .empty := by
  rw [List.getD_eq_getElem?_getD, List.getElem?_set]
  by_cases hk : i = k
  · subst hk; simp [hi]
  · simp [hk, Ne.symm hk]

theorem extends_set {slots : List Slot} {i : Nat} {v : Slot} (hi : i < slots.length)
    (hslot : slots.getD i .empty = .empty ∨ slots.getD i .empty = v) : Extends slots (slots.set i v) := by
  intro k hk
  rw [getD_set_slot hi]
  split
  next hki =>
    subst hki
    exact (hslot.resolve_left hk).symm
  next => rfl

/-- From `node`, the slots of the low `i` bits of a code lead to the leaf of `s`. -/
def Leads (slots : List Slot) (s code : Nat) : Nat → Nat → Prop
  | 0, _ => False
  | 1, node => slots.getD (2 * node + codeBit code 0) .empty = .leaf (BitVec.ofNat 9 s)
  | i + 2, node => ∃ j, slots.getD (2 * node + codeBit code (i + 1)) .empty = .node j ∧ Leads slots s code (i + 1) j.toNat

theorem Leads.mono {old new : List Slot} (h : Extends old new) {s code i node : Nat} (hl : Leads old s code i node) :
    Leads new s code i node := by
  induction i using Nat.twoStepInduction generalizing node with
  | zero => exact hl
  | one =>
    have hleaf : old.getD (2 * node + codeBit code 0) .empty = .leaf (BitVec.ofNat 9 s) := hl
    exact (h _ (by rw [hleaf]; exact Slot.noConfusion)).trans hleaf
  | more i _ ih =>
    obtain ⟨j, hj, hrest⟩ := hl
    exact ⟨j, (h _ (by rw [hj]; exact Slot.noConfusion)).trans hj, ih hrest⟩

theorem codeBit_lt (code i : Nat) : codeBit code i < 2 := Nat.mod_lt _ (by decide)

/-- One bit down a path: the word of the child, with the bits that are left. -/
theorem word_child (h code i : Nat) :
    h * 2 ^ (i + 1) + code % 2 ^ (i + 1) = (2 * h + codeBit code i) * 2 ^ i + code % 2 ^ i := by
  rw [Nat.mod_pow_succ, codeBit, Nat.pow_succ]; ring

section
variable {word : Nat → Nat} {inner : Finset Nat} {n : Nat} {slots : List Slot} {words : List Nat}

/-- The tree before the first code (R709). -/
theorem treeInv_empty (hw : TreeWords word inner n) : TreeInv word inner n (List.replicate (2 * (n - 1)) .empty) [1] := by
  have hempty (i : Nat) : (List.replicate (2 * (n - 1)) Slot.empty).getD i .empty = .empty := by
    rw [List.getD_eq_getElem?_getD, List.getElem?_replicate]; split <;> rfl
  refine ⟨List.length_replicate, rfl, List.nodup_singleton 1, ?_, ?_, fun j h b hj _ => ?_, fun i _ => hempty i⟩
  · simpa using hw.root
  · simp
  · obtain ⟨hlt, rfl⟩ := List.getElem?_eq_some_iff.mp hj
    have hne : 2 * [1][j] + b ∉ [1] := by
      obtain rfl : j = 0 := Nat.lt_one_iff.mp hlt
      rw [List.mem_singleton, List.getElem_singleton]
      omega
    rw [hempty]
    exact hne

theorem TreeInv.length_lt (inv : TreeInv word inner n slots words) (hw : TreeWords word inner n) : words.length < n := by
  rw [← List.toFinset_card_of_nodup inv.nodup]
  exact (Finset.card_le_card (fun h hh => inv.inside h (List.mem_toFinset.mp hh))).trans_lt hw.card

/-- The slots of the nodes made so far exist: there are at most as many nodes as inner words. -/
theorem TreeInv.slot_lt (inv : TreeInv word inner n slots words) (hw : TreeWords word inner n) {j h b : Nat}
    (hj : words[j]? = some h) (hb : b < 2) : 2 * j + b < slots.length := by
  obtain ⟨hlt, -⟩ := List.getElem?_eq_some_iff.mp hj
  have hlen := inv.length_lt hw
  rw [inv.length]
  omega

theorem TreeInv.word_pos (inv : TreeInv word inner n slots words) (hw : TreeWords word inner n) {j h : Nat}
    (hj : words[j]? = some h) : 0 < h :=
  hw.inner_pos h (inv.inside h (List.mem_of_getElem? hj))

theorem TreeInv.toNat_index (inv : TreeInv word inner n slots words) (hw : TreeWords word inner n) :
    (BitVec.ofNat 9 words.length).toNat = words.length := by
  rw [BitVec.toNat_ofNat, Nat.mod_eq_of_lt ((inv.length_lt hw).trans_le hw.n_le)]

/-- Different slots stand for different words. -/
theorem TreeInv.slot_inj (inv : TreeInv word inner n slots words) {j j' h h' b b' : Nat} (hj : words[j]? = some h)
    (hj' : words[j']? = some h') (hb : b < 2) (hb' : b' < 2) (hsame : 2 * h' + b' = 2 * h + b) :
    2 * j' + b' = 2 * j + b := by
  obtain ⟨rfl, rfl⟩ : h' = h ∧ b' = b := by omega
  rw [(List.getElem?_inj (List.getElem?_eq_some_iff.mp hj').1 inv.nodup).mp (hj'.trans hj.symm)]

/-- A new node changes what another word's slot may hold only if it is that word's node. -/
theorem SlotFits.append {x y : Nat} {v : Slot} (hv : SlotFits word words x v) (hne : x ≠ y) :
    SlotFits word (words ++ [y]) x v := by
  cases v with
  | empty => exact fun hmem => (List.mem_append.mp hmem).elim hv (fun hy => hne (List.mem_singleton.mp hy))
  | leaf s => exact hv
  | node k => exact (List.getElem?_append_left (List.getElem?_eq_some_iff.mp hv).1).trans hv

/-- A leaf put where it belongs keeps the tree. -/
theorem TreeInv.set_leaf (inv : TreeInv word inner n slots words) (hw : TreeWords word inner n) {j h b s : Nat}
    (hj : words[j]? = some h) (hb : b < 2) (hs : word s = 2 * h + b) (hpos : word s ≠ 0) :
    TreeInv word inner n (slots.set (2 * j + b) (.leaf (BitVec.ofNat 9 s))) words := by
  have hi := inv.slot_lt hw hj hb
  obtain ⟨hlt, -⟩ := List.getElem?_eq_some_iff.mp hj
  refine ⟨(List.length_set ..).trans inv.length, inv.root, inv.nodup, inv.inside, inv.closed, fun j' h' b' hj' hb' => ?_,
    fun i hfree => ?_⟩
  · rw [getD_set_slot hi]
    split
    next heq =>
      obtain ⟨rfl, rfl⟩ : j' = j ∧ b' = b := by omega
      obtain rfl : h' = h := Option.some.inj (hj'.symm.trans hj)
      have hsym : (BitVec.ofNat 9 s).toNat = s := by
        rw [BitVec.toNat_ofNat, Nat.mod_eq_of_lt ((hw.symbol_lt s hpos).trans_le hw.n_le)]
      exact (congrArg word hsym).trans hs
    next => exact inv.slot j' h' b' hj' hb'
  · rw [getD_set_slot hi, if_neg (by omega)]
    exact inv.free i hfree

/-- A new node in an empty slot keeps the tree. -/
theorem TreeInv.add_node (inv : TreeInv word inner n slots words) (hw : TreeWords word inner n) {j h b : Nat}
    (hj : words[j]? = some h) (hb : b < 2) (hslot : slots.getD (2 * j + b) .empty = .empty) (hin : 2 * h + b ∈ inner) :
    TreeInv word inner n (slots.set (2 * j + b) (.node (BitVec.ofNat 9 words.length))) (words ++ [2 * h + b]) := by
  have hi := inv.slot_lt hw hj hb
  have hmem := List.mem_of_getElem? hj
  have hpos := inv.word_pos hw hj
  obtain ⟨hlt, -⟩ := List.getElem?_eq_some_iff.mp hj
  have hnew : 2 * h + b ∉ words := by
    have hfits := inv.slot j h b hj hb
    rwa [hslot] at hfits
  refine ⟨(List.length_set ..).trans inv.length,
    (List.getElem?_append_left (List.getElem?_eq_some_iff.mp inv.root).1).trans inv.root,
    (List.nodup_cons.mpr ⟨hnew, inv.nodup⟩).perm (List.perm_append_singleton _ _).symm, ?_, ?_,
    fun j' h' b' hj' hb' => ?_, fun i hfree => ?_⟩
  · simp only [List.mem_append, List.mem_singleton]
    rintro x (hx | rfl)
    · exact inv.inside x hx
    · exact hin
  · simp only [List.mem_append, List.mem_singleton]
    rintro x (hx | rfl) hne
    · exact .inl (inv.closed x hx hne)
    · rw [show (2 * h + b) / 2 = h by omega]
      exact .inl hmem
  · rw [getD_set_slot hi]
    rcases Nat.lt_or_ge j' words.length with hold | hnewest
    · have hj'' : words[j']? = some h' := (List.getElem?_append_left hold).symm.trans hj'
      split
      next heq =>
        obtain ⟨rfl, rfl⟩ : j' = j ∧ b' = b := by omega
        obtain rfl : h' = h := Option.some.inj (hj''.symm.trans hj)
        exact (congrArg _ (inv.toNat_index hw)).trans List.getElem?_concat_length
      next hne => exact (inv.slot j' h' b' hj'' hb').append (fun hsame => hne (inv.slot_inj hj hj'' hb hb' hsame))
    · obtain ⟨hlen', -⟩ := List.getElem?_eq_some_iff.mp hj'
      rw [List.length_append, List.length_singleton] at hlen'
      obtain rfl : j' = words.length := by omega
      obtain rfl : 2 * h + b = h' := Option.some.inj (List.getElem?_concat_length.symm.trans hj')
      have hchild : 2 * (2 * h + b) + b' ∉ words := fun hchild => hnew (by
        have hparent := inv.closed _ hchild (by omega)
        rwa [show (2 * (2 * h + b) + b') / 2 = 2 * h + b by omega] at hparent)
      have hempty : SlotFits word words (2 * (2 * h + b) + b') .empty := hchild
      rw [if_neg (by omega), inv.free _ (Nat.le_add_right _ _)]
      exact hempty.append (by omega)
  · rw [List.length_append, List.length_singleton] at hfree
    rw [getD_set_slot hi, if_neg (by omega)]
    exact inv.free i (by omega)

/-- One code put into the tree (R709): the tree is kept, nothing in it is overwritten, and the code leads to its symbol. -/
theorem insertPath_spec (hw : TreeWords word inner n) {s code i node h : Nat}
    (inv : TreeInv word inner n slots words) (hnode : words[node]? = some h)
    (hword : word s = h * 2 ^ (i + 1) + code % 2 ^ (i + 1)) :
    ∃ slots' words', insertPath s code (i + 1) node (slots, words.length) = (slots', words'.length) ∧
      TreeInv word inner n slots' words' ∧ Extends slots slots' ∧ Leads slots' s code (i + 1) node := by
  induction i generalizing slots words node h with
  | zero =>
    have hb := codeBit_lt code 0
    have hchild : word s = 2 * h + codeBit code 0 := by rw [hword, word_child]; simp [Nat.mod_one]
    have hi := inv.slot_lt hw hnode hb
    have hpos := inv.word_pos hw hnode
    have hfits := inv.slot node h _ hnode hb
    refine ⟨_, words, rfl, inv.set_leaf hw hnode hb hchild (by omega), extends_set hi ?_, ?_⟩
    · match hslot : slots.getD (2 * node + codeBit code 0) .empty, hfits with
      | .empty, _ => exact .inl rfl
      | .leaf t, hfits =>
        have hsame : s = t.toNat := hw.inj s t.toNat (by omega) (hchild.trans hfits.symm)
        exact .inr (by rw [hsame, BitVec.ofNat_toNat, BitVec.setWidth_eq])
      | .node k, hfits =>
        exact absurd (inv.inside _ (List.mem_of_getElem? hfits)) (hchild ▸ hw.not_inner s)
    · exact (getD_set_slot hi _ _).trans (if_pos rfl)
  | succ i ih =>
    have hb := codeBit_lt code (i + 1)
    have hchild := hword.trans (word_child h code (i + 1))
    have hi := inv.slot_lt hw hnode hb
    have hpos := inv.word_pos hw hnode
    have hdiv : word s / 2 ^ (i + 1) = 2 * h + codeBit code (i + 1) := by
      rw [hchild, Nat.mul_comm, Nat.mul_add_div (Nat.two_pow_pos _),
        Nat.div_eq_of_lt (Nat.mod_lt _ (Nat.two_pow_pos _)), Nat.add_zero]
    have hin : 2 * h + codeBit code (i + 1) ∈ inner := hdiv ▸ hw.div_inner s i (by omega)
    have hfits := inv.slot node h _ hnode hb
    rw [insertPath]
    dsimp only
    match hslot : slots.getD (2 * node + codeBit code (i + 1)) .empty, hfits with
    | .empty, _ =>
      have inv' := inv.add_node hw hnode hb hslot hin
      have hnext : (words ++ [2 * h + codeBit code (i + 1)])[words.length]? = some _ := List.getElem?_concat_length
      obtain ⟨slots', words', heq, hinv, hext, hleads⟩ := ih inv' hnext hchild
      rw [List.length_append, List.length_singleton] at heq
      have hset := (getD_set_slot hi (.node (BitVec.ofNat 9 words.length)) _).trans (if_pos rfl)
      exact ⟨slots', words', heq, hinv, (extends_set hi (.inl hslot)).trans hext, _,
        (hext _ (by rw [hset]; exact Slot.noConfusion)).trans hset, (inv.toNat_index hw).symm ▸ hleads⟩
    | .leaf t, hfits =>
      have hword' : word t.toNat = 2 * h + codeBit code (i + 1) := hfits
      exact absurd hin (hword' ▸ hw.not_inner t.toNat)
    | .node k, hfits =>
      obtain ⟨slots', words', heq, hinv, hext, hleads⟩ := ih inv hfits hchild
      exact ⟨slots', words', heq, hinv, hext, k, (hext _ (by rw [hslot]; exact Slot.noConfusion)).trans hslot, hleads⟩

/-- What `insertAll` does for one symbol, used or not. -/
theorem insertSymbol_spec (hw : TreeWords word inner n) {s l code : Nat} (inv : TreeInv word inner n slots words)
    (hword : l ≠ 0 → word s = 2 ^ l + code ∧ code < 2 ^ l) :
    ∃ slots' words',
      (if l = 0 then (slots, words.length) else insertPath s code l 0 (slots, words.length)) = (slots', words'.length) ∧
      TreeInv word inner n slots' words' ∧ Extends slots slots' ∧ (l ≠ 0 → Leads slots' s code l 0) := by
  cases l with
  | zero => exact ⟨slots, words, if_pos rfl, inv, Extends.refl _, fun h => absurd rfl h⟩
  | succ i =>
    obtain ⟨hs, hlt⟩ := hword (Nat.succ_ne_zero i)
    obtain ⟨slots', words', heq, hinv, hext, hleads⟩ :=
      insertPath_spec hw inv inv.root (by rw [Nat.one_mul, Nat.mod_eq_of_lt hlt]; exact hs)
    exact ⟨slots', words', (if_neg (Nat.succ_ne_zero i)).trans heq, hinv, hext, fun _ => hleads⟩

/-- All codes put into the tree: each leads to its symbol. -/
theorem insertAll_spec (hw : TreeWords word inner n) {lens codes : List Nat} {first : Nat}
    (inv : TreeInv word inner n slots words) (hlen : codes.length = lens.length)
    (hword : ∀ k < lens.length, lens.getD k 0 ≠ 0 →
      word (first + k) = 2 ^ lens.getD k 0 + codes.getD k 0 ∧ codes.getD k 0 < 2 ^ lens.getD k 0) :
    Extends slots (insertAll first lens codes (slots, words.length)).1 ∧
      ∀ k < lens.length, lens.getD k 0 ≠ 0 →
        Leads (insertAll first lens codes (slots, words.length)).1 (first + k) (codes.getD k 0) (lens.getD k 0) 0 := by
  induction lens generalizing first codes slots words with
  | nil => exact ⟨Extends.refl _, fun k hk => absurd hk (Nat.not_lt_zero k)⟩
  | cons l rest ih =>
    match codes, hlen with
    | c :: cs, hlen =>
      have hrest : ∀ k < rest.length, rest.getD k 0 ≠ 0 →
          word (first + 1 + k) = 2 ^ rest.getD k 0 + cs.getD k 0 ∧ cs.getD k 0 < 2 ^ rest.getD k 0 := fun k hk hne => by
        have hk' := hword (k + 1) (Nat.succ_lt_succ hk) hne
        rwa [show first + (k + 1) = first + 1 + k by omega] at hk'
      obtain ⟨slots', words', heq, hinv, hext, hleads⟩ := insertSymbol_spec hw (s := first) (l := l) (code := c) inv
        (hword 0 (Nat.succ_pos _))
      obtain ⟨hext', hleads'⟩ := ih hinv (Nat.succ.inj hlen) hrest
      rw [insertAll, heq]
      refine ⟨hext.trans hext', fun k hk hne => ?_⟩
      cases k with
      | zero => exact (hleads hne).mono hext'
      | succ k =>
        rw [show first + (k + 1) = first + 1 + k by omega]
        exact hleads' k (Nat.lt_of_succ_lt_succ hk) hne

end

theorem canon_length (lens : List Nat) (lmax : Nat) : (canon lens lmax).length = lens.length := by
  have hassign (l next : List Nat) : (assignCodes l next).length = l.length := by
    induction l generalizing next with
    | nil => rfl
    | cons x rest ih => rw [assignCodes]; split <;> simp [ih]
  exact hassign lens _

/-- The tree of a complete code holds every code (R709). -/
theorem buildTree_leads {lens : List Nat} {n lmax sym : Nat} (h : CompleteCode lens n lmax) (hn : n ≤ 512) (hmax : 1 ≤ lmax)
    (hsym : lens.getD sym 0 ≠ 0) :
    ∃ tree, buildTree lens n lmax = some tree ∧ Leads tree sym (canonCode lens lmax sym) (lens.getD sym 0) 0 := by
  have hw := treeWords_of_completeCode h hn hmax
  obtain ⟨-, hle, hkraft⟩ := id h
  refine ⟨_, if_pos ((kraftSum_eq hle).trans hkraft), ?_⟩
  obtain ⟨-, hleads⟩ := insertAll_spec hw (first := 0) (lens := lens) (codes := canon lens lmax) (treeInv_empty hw)
    (canon_length lens lmax) (fun k _ hk => ⟨by rw [Nat.zero_add]; exact if_neg hk, canonCode_lt h hk⟩)
  have hlead := hleads sym (lt_length_of_getD_ne_zero hsym) hsym
  rwa [Nat.zero_add] at hlead

/-! The walk (R752). -/

/-- The walk along a code that the stream holds, most significant bit first, ends at its symbol. -/
theorem getCodeFrom_of_leads {mem : Memory} {tree : List Slot} {sym code i fuel node : Nat} {r : Reader} (hsym : sym < 512)
    (hfuel : i ≤ fuel) (hleads : Leads tree sym code i node) (hc : r.Coherent mem) (hroom : r.position + i ≤ r.bits)
    (hstream : ∀ j < i, streamBit mem r.base (r.position + j) = code.testBit (i - 1 - j)) :
    ∃ r', getCodeFrom mem tree fuel node r = .ok (sym, r') ∧ r'.position = r.position + i ∧ r'.Coherent mem ∧
      r'.base = r.base ∧ r'.len = r.len := by
  induction i generalizing fuel node r with
  | zero => exact hleads.elim
  | succ i ih =>
    obtain ⟨fuel, rfl⟩ := Nat.exists_eq_add_of_le' (Nat.one_le_of_lt hfuel)
    obtain ⟨r1, hget, hpos, hc1, hbase, hlen⟩ := exists_bitRead hc (by omega)
    have hbit : (streamBit mem r.base r.position).toNat = codeBit code i := by
      rw [← toNat_testBit]
      exact congrArg Bool.toNat (hstream 0 (Nat.succ_pos i))
    rw [hbit] at hget
    rw [getCodeFrom, hget]
    dsimp only
    cases i with
    | zero =>
      have hleaf : tree.getD (2 * node + codeBit code 0) .empty = .leaf (BitVec.ofNat 9 sym) := hleads
      rw [hleaf]
      refine ⟨r1, ?_, hpos, hc1, hbase, hlen⟩
      dsimp only
      rw [BitVec.toNat_ofNat, Nat.mod_eq_of_lt hsym]
    | succ i =>
      obtain ⟨j, hj, hrest⟩ := hleads
      have hbits : r1.bits = r.bits := by rw [Reader.bits, Reader.bits, hlen]
      rw [hj]
      dsimp only
      obtain ⟨r2, hwalk, hpos2, hc2, hbase2, hlen2⟩ := ih (fuel := fuel) (node := j.toNat) (r := r1) (by omega) hrest hc1
        (by omega) (fun k hk => by
          rw [hbase, hpos, Nat.add_assoc, Nat.add_comm 1 k, hstream (k + 1) (Nat.succ_lt_succ hk)]
          congr 1; omega)
      exact ⟨r2, hwalk, by omega, hc2, hbase2.trans hbase, hlen2.trans hlen⟩

theorem reversedCodes_getD {lens : List Nat} {lmax sym : Nat} (hsym : lens.getD sym 0 ≠ 0) :
    (reversedCodes lens lmax).getD sym 0 = revBits (lens.getD sym 0) (canonCode lens lmax sym) := by
  have hlt := lt_length_of_getD_ne_zero hsym
  have hlt' : sym < (canon lens lmax).length := (canon_length lens lmax).symm ▸ hlt
  have hlt'' : sym < (reversedCodes lens lmax).length := by
    rw [reversedCodes, List.length_zipWith]
    exact Nat.lt_min.mpr ⟨hlt, hlt'⟩
  rw [canonCode, List.getD_eq_getElem _ _ hlt, List.getD_eq_getElem _ _ hlt', List.getD_eq_getElem _ _ hlt'']
  exact List.getElem_zipWith

/-- Settles O60: the symbol's code stands in the tree as a path, and the reversed code in the stream is that path. -/
theorem treeWalkDecodesEveryCode : Obligations.TreeWalkDecodesEveryCode := by
  unfold Obligations.TreeWalkDecodesEveryCode
  intro lens n lmax sym mem r halphabet hcomplete hsym hused hc hroom hstream
  obtain ⟨-, hn, -, hmax, hmax14⟩ := alphabet_bounds halphabet
  have hne := hused.ne'
  obtain ⟨tree, htree, hleads⟩ := buildTree_leads hcomplete (by omega) hmax hne
  have hfuel : lens.getD sym 0 ≤ Config.litMaxLen := (length_le_max hcomplete hne).trans hmax14
  obtain ⟨r', hwalk⟩ := getCodeFrom_of_leads (by omega) hfuel hleads hc hroom (fun j hj => by
    rw [hstream j hj, reversedCodes_getD hne, testBit_revBits _ hj])
  exact ⟨tree, r', htree, hwalk⟩

end Sys2Proof.Proofs

/-! PROOFS. The run-length coding of code lengths and its decoding (44_block_encoder.md R554, 47_block_decoder.md R706). Both
sides are compared with `writeLens`, which writes a sequence into a length array entry by entry: the items of a run write the
values that they stand for, and the runs follow one another as the parts of the sequence do. -/

namespace Sys2Proof.Proofs

open Sys2Proof Sys2Proof.Machine Sys2Proof.Laws

/-! Writing a sequence of lengths. -/

/-- The length array with the values `vs` written from index `i` on. -/
def writeLens : List Nat → Nat → List (BitVec 4) → List (BitVec 4)
  | [], _, lens => lens
  | v :: vs, i, lens => writeLens vs (i + 1) (lens.set i (BitVec.ofNat 4 v))

@[simp] theorem writeLens_length (vs : List Nat) (i : Nat) (lens : List (BitVec 4)) :
    (writeLens vs i lens).length = lens.length := by
  induction vs generalizing i lens with
  | nil => rfl
  | cons v vs ih => rw [writeLens, ih, List.length_set]

theorem writeLens_append (us vs : List Nat) (i : Nat) (lens : List (BitVec 4)) :
    writeLens (us ++ vs) i lens = writeLens vs (i + us.length) (writeLens us i lens) := by
  induction us generalizing i lens with
  | nil => rfl
  | cons u us ih => rw [List.cons_append, writeLens, ih, writeLens, List.length_cons, Nat.add_right_comm, Nat.add_assoc]

theorem getD_set_lens {lens : List (BitVec 4)} {i : Nat} (hi : i < lens.length) (v : BitVec 4) (j : Nat) :
    (lens.set i v).getD j 0 = if j = i then v else lens.getD j 0 := by
  simp only [List.getD_eq_getElem?_getD, List.getElem?_set, hi, if_true, eq_comm (a := i)]
  split <;> rfl

theorem writeLens_getD_outside {vs : List Nat} {i j : Nat} {lens : List (BitVec 4)} (hroom : i + vs.length ≤ lens.length)
    (hj : j < i ∨ i + vs.length ≤ j) : (writeLens vs i lens).getD j 0 = lens.getD j 0 := by
  induction vs generalizing i lens with
  | nil => rfl
  | cons v vs ih =>
    rw [List.length_cons] at hroom hj
    rw [writeLens, ih (by rw [List.length_set]; omega) (by omega), getD_set_lens (by omega), if_neg (by omega)]

theorem writeLens_getD_inside {vs : List Nat} {i k : Nat} {lens : List (BitVec 4)} (hroom : i + vs.length ≤ lens.length)
    (hk : k < vs.length) : (writeLens vs i lens).getD (i + k) 0 = BitVec.ofNat 4 (vs.getD k 0) := by
  induction vs generalizing i k lens with
  | nil => exact absurd hk (Nat.not_lt_zero k)
  | cons v vs ih =>
    rw [List.length_cons] at hroom hk
    have hroom' : i + 1 + vs.length ≤ (lens.set i (BitVec.ofNat 4 v)).length := by rw [List.length_set]; omega
    cases k with
    | zero => rw [writeLens, writeLens_getD_outside hroom' (by omega), getD_set_lens (by omega), if_pos (Nat.add_zero i)]; rfl
    | succ k => rw [writeLens, Nat.add_comm k 1, ← Nat.add_assoc, ih hroom' (by omega), Nat.add_comm 1 k]; rfl

/-- R706: a repeat writes copies of the length before it. -/
theorem repeatLens_eq_writeLens {r i v : Nat} {lens : List (BitVec 4)} (hi : 1 ≤ i) (hroom : i + r ≤ lens.length)
    (hprev : lens.getD (i - 1) 0 = BitVec.ofNat 4 v) :
    repeatLens r i lens = writeLens (List.replicate r v) i lens := by
  induction r generalizing i lens with
  | zero => rfl
  | succ r ih =>
    rw [repeatLens, List.replicate_succ, writeLens, hprev]
    refine ih (Nat.le_add_left 1 i) (by rw [List.length_set]; omega) ?_
    rw [Nat.add_sub_cancel, getD_set_lens (by omega), if_pos rfl]

/-! One item (R554, R706). -/

/-- An item with a symbol of the code-length alphabet and extra bits that the symbol takes (30_encoding.md R310). -/
def ItemFits (i : Item) : Prop := i.t < 20 ∧ i.e = runExtra i.t ∧ i.x < 2 ^ i.e

theorem itemFits_literal {v : Nat} (hv : v ≤ 14) : ItemFits { t := v, e := 0, x := 0 } :=
  ⟨by dsimp only; omega, (if_pos (Nat.lt_succ_of_le hv)).symm, Nat.one_pos⟩

/-- The five symbols of the repeats: the bands 2, 3 to 4, 5 to 8, 9 to 16 and 17 to 144 of repeat counts. -/
theorem repeatItem_spec {r : Nat} (h2 : 2 ≤ r) (h144 : r ≤ 144) :
    ItemFits (repeatItem r) ∧ 15 ≤ (repeatItem r).t ∧ repeatCount (repeatItem r).t (repeatItem r).x = r := by
  have h15 : runBase 15 = 2 ∧ runExtra 15 = 0 := by decide
  have h16 : runBase 16 = 3 ∧ runExtra 16 = 1 := by decide
  have h17 : runBase 17 = 5 ∧ runExtra 17 = 2 := by decide
  have h18 : runBase 18 = 9 ∧ runExtra 18 = 3 := by decide
  have h19 : runBase 19 = 17 ∧ runExtra 19 = 7 := by decide
  unfold repeatItem ItemFits repeatCount
  split_ifs <;> dsimp only <;> omega

theorem applyCodeLength_literal {v : Nat} (hv : v ≤ 14) (count i : Nat) (lens : List (BitVec 4)) :
    applyCodeLength v 0 count i lens = some (writeLens [v] i lens, i + 1) := if_pos hv

theorem applyCodeLength_repeatItem {r i v count : Nat} {lens : List (BitVec 4)} (h2 : 2 ≤ r) (h144 : r ≤ 144) (hi : 1 ≤ i)
    (hcount : i + r ≤ count) (hlen : count ≤ lens.length) (hprev : lens.getD (i - 1) 0 = BitVec.ofNat 4 v) :
    applyCodeLength (repeatItem r).t (repeatItem r).x count i lens =
      some (writeLens (List.replicate r v) i lens, i + r) := by
  obtain ⟨-, ht, hr⟩ := repeatItem_spec h2 h144
  rw [applyCodeLength, if_neg (by omega), if_neg (by omega), hr, if_neg (by omega),
    repeatLens_eq_writeLens hi (hcount.trans hlen) hprev]

/-! Lists of items. -/

theorem applyItems_cons {count : Nat} {i : Item} {a b : List (BitVec 4) × Nat}
    (h : applyCodeLength i.t i.x count a.2 a.1 = some b) (rest : List Item) :
    applyItems count (i :: rest) a = applyItems count rest b := by rw [applyItems, h]

theorem applyItems_append {count : Nat} {items : List Item} {a b : List (BitVec 4) × Nat}
    (h : applyItems count items a = some b) (rest : List Item) :
    applyItems count (items ++ rest) a = applyItems count rest b := by
  induction items generalizing a with
  | nil => cases h; rfl
  | cons i items ih =>
    rw [applyItems] at h
    split at h
    · cases h
    · rename_i c hc
      rw [List.cons_append, applyItems_cons hc, ih h]

/-! The repeats of one run (R554). -/

theorem repeatItems_succ {fuel r : Nat} (h2 : 2 ≤ r) :
    repeatItems (fuel + 1) r =
      (repeatItem (min r 144) :: (repeatItems fuel (r - min r 144)).1, (repeatItems fuel (r - min r 144)).2) := if_pos h2

theorem repeatItems_of_short {r : Nat} (h : r < 2) (fuel : Nat) : repeatItems fuel r = ([], r) := by
  cases fuel with
  | zero => rfl
  | succ fuel => exact if_neg (Nat.not_le.mpr h)

theorem repeatItems_left_le (fuel r : Nat) : (repeatItems fuel r).2 ≤ r := by
  induction fuel generalizing r with
  | zero => exact le_rfl
  | succ fuel ih =>
    by_cases h2 : 2 ≤ r
    · rw [repeatItems_succ h2]
      exact (ih _).trans (Nat.sub_le _ _)
    · rw [repeatItems_of_short (by omega)]

theorem repeatItems_fit (fuel r : Nat) : ∀ i ∈ (repeatItems fuel r).1, ItemFits i := by
  induction fuel generalizing r with
  | zero => exact List.forall_mem_nil _
  | succ fuel ih =>
    by_cases h2 : 2 ≤ r
    · rw [repeatItems_succ h2]
      exact List.forall_mem_cons.mpr ⟨(repeatItem_spec (by omega) (by omega)).1, ih _⟩
    · rw [repeatItems_of_short (by omega)]
      exact List.forall_mem_nil _

/-- The repeats write the run but for what they leave over. -/
theorem applyItems_repeatItems {fuel r i v count : Nat} {lens : List (BitVec 4)} (hi : 1 ≤ i) (hcount : i + r ≤ count)
    (hlen : count ≤ lens.length) (hprev : lens.getD (i - 1) 0 = BitVec.ofNat 4 v) :
    applyItems count (repeatItems fuel r).1 (lens, i) =
      some (writeLens (List.replicate (r - (repeatItems fuel r).2) v) i lens, i + (r - (repeatItems fuel r).2)) := by
  induction fuel generalizing r i lens with
  | zero => rw [repeatItems, Nat.sub_self]; rfl
  | succ fuel ih =>
    by_cases h2 : 2 ≤ r
    · have hleft := repeatItems_left_le fuel (r - min r 144)
      obtain ⟨k, hk⟩ : ∃ k, k = min r 144 := ⟨_, rfl⟩
      rw [← hk] at hleft
      have hwritten : (writeLens (List.replicate k v) i lens).getD (i + k - 1) 0 = BitVec.ofNat 4 v := by
        rw [Nat.add_sub_assoc (by omega), writeLens_getD_inside (by rw [List.length_replicate]; omega)
          (by rw [List.length_replicate]; omega), List.getD_replicate _ (by omega)]
      have hsplit : r - (repeatItems fuel (r - k)).2 = k + (r - k - (repeatItems fuel (r - k)).2) := by omega
      rw [repeatItems_succ h2, ← hk,
        applyItems_cons (applyCodeLength_repeatItem (by omega) (by omega) hi (by omega) hlen hprev), ih (by omega) (by omega) (by rwa [writeLens_length]) hwritten]
      dsimp only
      rw [hsplit, List.replicate_add, writeLens_append, List.length_replicate, Nat.add_assoc]
    · rw [repeatItems_of_short (by omega), Nat.sub_self]; rfl

/-! The whole sequence (R554). -/

theorem replicate_append_drop {v k : Nat} {l : List Nat} (hk : k ≤ runLength v l) :
    List.replicate k v ++ l.drop k = l := by
  induction l generalizing k with
  | nil => rw [Nat.le_zero.mp hk]; rfl
  | cons x l ih =>
    cases k with
    | zero => rfl
    | succ k =>
      by_cases hx : x = v
      · rw [runLength, if_pos hx] at hk
        rw [List.replicate_succ, List.cons_append, List.drop_succ_cons, ih (Nat.le_of_succ_le_succ hk), hx]
      · rw [runLength, if_neg hx] at hk
        exact absurd hk (Nat.not_succ_le_zero k)

/-- A run is written as its literal, its repeats, and the sequence that goes on after them. -/
theorem writeLens_run {v k : Nat} {rest : List Nat} (hk : k ≤ runLength v rest) (i : Nat) (lens : List (BitVec 4)) :
    writeLens (v :: rest) i lens =
      writeLens (rest.drop k) (i + 1 + k) (writeLens (List.replicate k v) (i + 1) (writeLens [v] i lens)) := by
  have h := writeLens_append (List.replicate k v) (rest.drop k) (i + 1) (writeLens [v] i lens)
  rw [replicate_append_drop hk, List.length_replicate] at h
  exact h

theorem runLength_le (v : Nat) (l : List Nat) : runLength v l ≤ l.length := by
  induction l with
  | nil => exact le_rfl
  | cons x l ih =>
    rw [runLength, List.length_cons]
    split <;> omega

/-- How many values after the first one the repeats of a run cover. -/
def covered (v : Nat) (rest : List Nat) : Nat :=
  runLength v rest - (repeatItems (runLength v rest) (runLength v rest)).2

theorem rleFrom_cons (fuel v : Nat) (rest : List Nat) :
    rleFrom (fuel + 1) (v :: rest) = { t := v, e := 0, x := 0 } ::
      ((repeatItems (runLength v rest) (runLength v rest)).1 ++ rleFrom fuel (rest.drop (covered v rest))) := rfl

theorem rleFrom_fit {fuel : Nat} {seq : List Nat} (hseq : ∀ v ∈ seq, v ≤ 14) : ∀ i ∈ rleFrom fuel seq, ItemFits i := by
  induction fuel generalizing seq with
  | zero => exact List.forall_mem_nil _
  | succ fuel ih =>
    cases seq with
    | nil => exact List.forall_mem_nil _
    | cons v rest =>
      obtain ⟨hv, hrest⟩ := List.forall_mem_cons.mp hseq
      rw [rleFrom_cons]
      exact List.forall_mem_cons.mpr ⟨itemFits_literal hv, List.forall_mem_append.mpr
        ⟨repeatItems_fit _ _, ih fun u hu => hrest u (List.mem_of_mem_drop hu)⟩⟩

theorem applyItems_rleFrom {fuel i count : Nat} {seq : List Nat} {lens : List (BitVec 4)} (hfuel : seq.length ≤ fuel)
    (hseq : ∀ v ∈ seq, v ≤ 14) (hcount : i + seq.length ≤ count) (hlen : count ≤ lens.length) :
    applyItems count (rleFrom fuel seq) (lens, i) = some (writeLens seq i lens, i + seq.length) := by
  induction fuel generalizing seq i lens with
  | zero => rw [List.length_eq_zero_iff.mp (Nat.le_zero.mp hfuel)]; rfl
  | succ fuel ih =>
    cases seq with
    | nil => rfl
    | cons v rest =>
      obtain ⟨hv, hrest⟩ := List.forall_mem_cons.mp hseq
      rw [List.length_cons] at hfuel hcount
      have hrun := runLength_le v rest
      have hcov : covered v rest ≤ runLength v rest := Nat.sub_le _ _
      have hdrop : (rest.drop (covered v rest)).length = rest.length - covered v rest := List.length_drop
      have hliteral : (writeLens [v] i lens).getD (i + 1 - 1) 0 = BitVec.ofNat 4 v :=
        writeLens_getD_inside (k := 0) (by rw [List.length_singleton]; omega) Nat.one_pos
      have hrepeats := applyItems_repeatItems (fuel := runLength v rest) (r := runLength v rest) (count := count)
        (Nat.le_add_left 1 i) (by omega) (by rwa [writeLens_length]) hliteral
      have htail := ih (i := i + 1 + covered v rest) (seq := rest.drop (covered v rest))
        (lens := writeLens (List.replicate (covered v rest) v) (i + 1) (writeLens [v] i lens))
        (by omega) (fun u hu => hrest u (List.mem_of_mem_drop hu)) (by omega) (by rwa [writeLens_length, writeLens_length])
      rw [rleFrom_cons, applyItems_cons (applyCodeLength_literal hv count i lens), applyItems_append hrepeats]
      rw [← covered, htail, ← writeLens_run hcov, hdrop, List.length_cons]
      congr 2; omega

/-- Settles O59: the items write the sequence entry by entry from index 0. -/
theorem unRleInvertsRle : Obligations.UnRleInvertsRle := by
  unfold Obligations.UnRleInvertsRle
  intro seq lens hseq hlen
  have hroom : 0 + seq.length ≤ lens.length := by rwa [Nat.zero_add]
  refine ⟨rleFrom_fit hseq, writeLens seq 0 lens, ?_, writeLens_length seq 0 lens, fun j hj => ?_, fun j hj => ?_⟩
  · rw [rle, applyItems_rleFrom le_rfl hseq (Nat.zero_add _).le hlen, Nat.zero_add]
  · have hvalue : seq.getD j 0 ≤ 14 := by
      rw [List.getD_eq_getElem _ _ hj]
      exact hseq _ (List.getElem_mem hj)
    have hentry := writeLens_getD_inside hroom hj
    rw [Nat.zero_add] at hentry
    rw [hentry, BitVec.toNat_ofNat, Nat.mod_eq_of_lt (by omega)]
  · exact writeLens_getD_outside hroom (.inr (by rwa [Nat.zero_add]))

end Sys2Proof.Proofs

/-! PROOFS. The exact costs of the blocks (44_block_encoder.md R556, R558). A field of at most 32 bits moves the writer's position
by its width (45_bit_writer.md R601, R606), so a block's bit count is the sum of its fields' widths; over the buffered symbols
that sum is taken symbol by symbol of the alphabet, each as often as the frequency tables count it. -/

namespace Sys2Proof.Proofs

open Sys2Proof Sys2Proof.Machine Sys2Proof.Laws

/-! The writer's position (R606). -/

theorem andThen_eq_ok {r : Run} {f : Work → Run} {w' : Work} (h : r.andThen f = .ok w') :
    ∃ w1, r = .ok w1 ∧ f w1 = .ok w' := by
  cases r with
  | ok w1 => exact ⟨w1, rfl, h⟩
  | noSpace w1 => cases h

/-- R602: a word that is emitted ends within the 32-bit capacity, so the count of words does not wrap. -/
theorem emitWord_words {v : Word} {w w' : Work} (h : emitWord v w = .ok w') :
    w'.wr.wwords.toNat = w.wr.wwords.toNat + 1 := by
  unfold emitWord at h
  split at h
  · cases h
  · rename_i hcap
    cases h
    have hcap32 := w.wr.cap.isLt
    have hone : (1 : BitVec 30).toNat = 1 := rfl
    simp only [wwords_toNat] at hcap ⊢
    rw [BitVec.toNat_add, hone]
    omega

theorem putBits_position {v k : Nat} {w w' : Work} (hk : k ≤ 32) (h : putBits v k w = .ok w') :
    w'.wr.position = w.wr.position + k := by
  have hpending := w.wr.k.isLt
  unfold putBits at h
  dsimp only at h
  split at h
  · obtain ⟨w1, hemit, hok⟩ := andThen_eq_ok h
    have hwords := emitWord_words hemit
    cases hok
    rw [wwords_toNat, wwords_toNat] at hwords
    simp only [Writer.position, wwords_toNat, BitVec.toNat_ofNat, hwords]
    omega
  · cases h
    simp only [Writer.position, wwords_toNat, BitVec.toNat_ofNat]
    omega

/-- The bits that a list of fields takes. -/
def fieldBits (l : List (Nat × Nat)) : Nat := (l.map Prod.snd).sum

/-- Every field is one that `PutBits` takes (R601). -/
def WidthsFit (l : List (Nat × Nat)) : Prop := ∀ f ∈ l, f.2 ≤ 32

theorem putFields_position {l : List (Nat × Nat)} {w w' : Work} (hl : WidthsFit l) (h : putFields l w = .ok w') :
    w'.wr.position = w.wr.position + fieldBits l := by
  induction l generalizing w with
  | nil => cases h; rfl
  | cons f rest ih =>
    obtain ⟨hf, hrest⟩ := List.forall_mem_cons.mp hl
    obtain ⟨w1, hput, hgo⟩ := andThen_eq_ok h
    rw [ih hrest hgo, putBits_position hf hput, fieldBits, fieldBits, List.map_cons, List.sum_cons, Nat.add_assoc]

/-- R603: `AlignWriter` moves to the next byte boundary. -/
theorem alignWriter_position {w w' : Work} (h : alignWriter w = .ok w') :
    w'.wr.position = w.wr.position + (8 - w.wr.position % 8) % 8 := by
  have hbyte : w.wr.k.toNat % 8 = w.wr.position % 8 := by rw [Writer.position]; omega
  rw [putBits_position (by omega) h, hbyte]

/-! The stored block (R558, R560). -/

theorem fieldBits_map {α : Type} (value : α → Nat) (width : Nat) (l : List α) :
    fieldBits (l.map fun a => (value a, width)) = width * l.length := by
  simp [fieldBits, Function.comp_def, Nat.mul_comm]

theorem emitStored_position {e : Source} {w w' : Work} (h : emitStored e w = .ok w') :
    w'.wr.position = w.wr.position + storedCost w := by
  obtain ⟨w1, hhead, h1⟩ := andThen_eq_ok h
  obtain ⟨w2, halign, hbytes⟩ := andThen_eq_ok h1
  have hhead' := putFields_position (by simp [WidthsFit]) hhead
  have halign' := alignWriter_position halign
  have hbytes' := putFields_position (by simp [WidthsFit]) hbytes
  rw [fieldBits_map, List.length_range] at hbytes'
  have h9 : fieldBits [(0, 1), (w.buf.span.toNat - Config.blockSyms, 8)] = 9 := rfl
  rw [hbytes', halign', hhead', h9, storedCost]
  omega

/-! The fields of a compressed block (R561, R562) and their widths. -/

theorem fieldBits_append (l m : List (Nat × Nat)) : fieldBits (l ++ m) = fieldBits l + fieldBits m := by
  rw [fieldBits, List.map_append, List.sum_append]; rfl

theorem fieldBits_flatMap {α : Type} (f : α → List (Nat × Nat)) (l : List α) :
    fieldBits (l.flatMap f) = (l.map fun a => fieldBits (f a)).sum := by
  induction l with
  | nil => rfl
  | cons a l ih => rw [List.flatMap_cons, fieldBits_append, ih, List.map_cons, List.sum_cons]

theorem tableNat_lt {n : Nat} (t : List (BitVec n)) (i : Nat) : tableNat t i < 2 ^ n := BitVec.isLt _

theorem lenExtra_le {i : Nat} (hi : i < 64) : lenExtra i ≤ 32 :=
  (by decide : ∀ i < 64, lenExtra i ≤ 32) i hi

theorem distExtra_le {c : Nat} (hc : c < 64) : distExtra c ≤ 32 :=
  (by decide : ∀ c < 64, distExtra c ≤ 32) c hc

theorem widthsFit_append {l m : List (Nat × Nat)} (hl : WidthsFit l) (hm : WidthsFit m) : WidthsFit (l ++ m) :=
  List.forall_mem_append.mpr ⟨hl, hm⟩

theorem widthsFit_flatMap {α : Type} {f : α → List (Nat × Nat)} (hf : ∀ a, WidthsFit (f a)) (l : List α) :
    WidthsFit (l.flatMap f) := fun x hx =>
  let ⟨a, _, hxa⟩ := List.mem_flatMap.mp hx
  hf a x hxa

theorem widthsFit_singleton {v k : Nat} (hk : k ≤ 32) : WidthsFit [(v, k)] := List.forall_mem_singleton.mpr hk

theorem itemFields_widthsFit (tab : CodeTables) (i : RleItem) : WidthsFit (itemFields tab i) := by
  have hcode := tableNat_lt tab.clLen i.sym.toNat
  have hextra := i.nextra.isLt
  exact widthsFit_append (l := [_]) (widthsFit_singleton (by omega)) (widthsFit_singleton (by omega))

theorem fieldBits_itemFields (tab : CodeTables) (i : RleItem) :
    fieldBits (itemFields tab i) = tableNat tab.clLen i.sym.toNat + i.nextra.toNat := rfl

/-- The bits of a literal/length symbol, its code and its extra bits (R556). -/
def litCost (tab : CodeTables) (s : Nat) : Nat :=
  tableNat tab.litLen s + if 256 ≤ s then lenExtra (s - 256) else 0

/-- The bits of a distance symbol, its code and its extra bits (R556). -/
def distCost (tab : CodeTables) (c : Nat) : Nat := tableNat tab.distLen c + if 3 ≤ c then distExtra c else 0

theorem symFields_widthsFit (tab : CodeTables) (y : Sym) : WidthsFit (symFields tab y) := by
  have hlit := tableNat_lt tab.litLen
  have hdist := tableNat_lt tab.distLen
  cases y with
  | literal b => exact widthsFit_singleton ((hlit b.toNat).le.trans (by decide))
  | copy lcode lextra dcode dextra =>
    have hd : (if 3 ≤ dcode.toNat then distExtra dcode.toNat else 0) ≤ 32 := by
      split
      · exact distExtra_le dcode.isLt
      · exact Nat.zero_le 32
    exact List.forall_mem_cons.mpr ⟨(hlit _).le.trans (by decide), List.forall_mem_cons.mpr ⟨lenExtra_le lcode.isLt,
      List.forall_mem_cons.mpr ⟨(hdist _).le.trans (by decide), widthsFit_singleton hd⟩⟩⟩

theorem fieldBits_symFields (tab : CodeTables) (y : Sym) :
    fieldBits (symFields tab y) = litCost tab y.litSym + (y.distSym.map (distCost tab)).sum := by
  cases y with
  | literal b =>
    have hb : ¬ 256 ≤ b.toNat := by omega
    simp [fieldBits, symFields, Sym.litSym, Sym.distSym, litCost, hb]
  | copy lcode lextra dcode dextra =>
    simp [fieldBits, symFields, Sym.litSym, Sym.distSym, litCost, distCost, Nat.add_assoc]

theorem fieldBits_headFields {tab : CodeTables} (hlen : tab.clLen.length = 20) :
    fieldBits (headFields tab) = 1 + 3 * 20 + 6 + itemsCost tab tab.litRle + 6 + itemsCost tab tab.distRle := by
  simp only [headFields, fieldBits_append, fieldBits_flatMap, fieldBits_itemFields, fieldBits_map, hlen]
  rfl

theorem headFields_widthsFit (tab : CodeTables) : WidthsFit (headFields tab) := by
  have hitems := widthsFit_flatMap (itemFields_widthsFit tab)
  have hcl : WidthsFit (tab.clLen.map fun l => (l.toNat, 3)) := List.forall_mem_map.mpr fun _ _ => (by decide : 3 ≤ 32)
  exact widthsFit_append (widthsFit_append (widthsFit_append (widthsFit_append (widthsFit_append
    (widthsFit_singleton (by decide)) hcl) (widthsFit_singleton (by decide))) (hitems _))
    (widthsFit_singleton (by decide))) (hitems _)

/-! The buffered symbols, counted by symbol of the alphabet (R550, R551, R556). -/

/-- A sum over a list of symbols, taken over the alphabet. -/
theorem sum_range_countEq {n : Nat} {l : List Nat} (hl : ∀ s ∈ l, s < n) (cost : Nat → Nat) :
    ((List.range n).map fun s => countEq s l * cost s).sum = (l.map cost).sum := by
  have hsub : l.toFinset ⊆ Finset.range n := fun s hs => Finset.mem_range.mpr (hl s (List.mem_toFinset.mp hs))
  calc ((List.range n).map fun s => countEq s l * cost s).sum
      = ∑ s ∈ Finset.range n, countEq s l * cost s := rfl
    _ = ∑ s ∈ l.toFinset, countEq s l * cost s := (Finset.sum_subset hsub fun s _ hs => by
        rw [countEq_eq_count, List.count_eq_zero_of_not_mem (fun h => hs (List.mem_toFinset.mpr h)), Nat.zero_mul]).symm
    _ = ∑ s ∈ l.toFinset, l.count s • cost s := by simp only [countEq_eq_count, smul_eq_mul]
    _ = (l.map cost).sum := (Finset.sum_list_map_count l cost).symm

theorem litSym_lt (y : Sym) : y.litSym < Config.litN := by
  cases y with
  | literal b => exact b.isLt.trans (by decide)
  | copy lcode _ _ _ => exact Nat.add_lt_add_left lcode.isLt 256

theorem distSym_lt {y : Sym} {c : Nat} (hc : c ∈ y.distSym) : c < Config.distN := by
  cases y with
  | literal b => cases hc
  | copy _ _ dcode _ => exact List.mem_singleton.mp hc ▸ dcode.isLt

/-- The bits of buffered symbols, by the frequencies of both alphabets. -/
theorem fieldBits_symbols (tab : CodeTables) (syms : List Sym) :
    fieldBits (syms.flatMap (symFields tab)) =
      ((List.range Config.litN).map fun s => countEq s (syms.map Sym.litSym) * litCost tab s).sum +
        ((List.range Config.distN).map fun c => countEq c (syms.flatMap Sym.distSym) * distCost tab c).sum := by
  rw [sum_range_countEq (List.forall_mem_map.mpr fun y _ => litSym_lt y),
    sum_range_countEq (fun c hc => let ⟨_, _, hcy⟩ := List.mem_flatMap.mp hc; distSym_lt hcy), fieldBits_flatMap]
  induction syms with
  | nil => rfl
  | cons y syms ih =>
    simp only [List.map_cons, List.sum_cons, List.flatMap_cons, List.map_append, List.sum_append, fieldBits_symFields]
      at ih ⊢
    omega

theorem fieldBits_compressedFields {w : Work} (hw : w.counted) : fieldBits (compressedFields w) = compressedCost w := by
  obtain ⟨hlit, hdist, hlen⟩ := hw
  rw [compressedFields, fieldBits_append, fieldBits_headFields hlen, fieldBits_symbols, compressedCost]
  simp only [hlit, hdist, litCost, distCost, Nat.add_assoc]

/-- Settles O53: each emission moves the position by its fields' widths, and these add up to the block's cost. -/
theorem blockCostsAreExact : Obligations.BlockCostsAreExact := by
  unfold Obligations.BlockCostsAreExact
  intro e w w'
  refine ⟨fun hw h => ?_, emitStored_position⟩
  have hfit : WidthsFit (compressedFields w) :=
    widthsFit_append (headFields_widthsFit w.tab) (widthsFit_flatMap (symFields_widthsFit w.tab) _)
  rw [putFields_position hfit h, fieldBits_compressedFields hw]

end Sys2Proof.Proofs

/-! PROOFS. The bit writer (45_bit_writer.md R601, R602, R605, R606): what a word that is emitted does to memory, and that
`PutBits` appends its bits to the stream. Both of `PutBits`' cases turn on one fact: from the first bit that is not yet emitted
on, the stream is the 64-bit value `t` of R601, whether its low word goes to memory or all of it stays pending. -/

namespace Sys2Proof.Proofs

open Sys2Proof Sys2Proof.Machine Sys2Proof.Laws

/-! The emitted word (R602, R605). -/

theorem emitWord_noSpace {v : Word} {w : Work} (hcap : w.wr.cap.toNat < 4 * (w.wr.wwords.toNat + 1)) :
    emitWord v w = .noSpace w := if_pos hcap

theorem emitWord_measure {v : Word} {w : Work} (hmode : w.wr.mode = .measure)
    (hcap : 4 * (w.wr.wwords.toNat + 1) ≤ w.wr.cap.toNat) :
    emitWord v w = .ok { w with wr := { w.wr with words := w.wr.words + 1 } } := by
  rw [emitWord, if_neg (not_lt.mpr hcap), hmode]

theorem emitWord_write {v : Word} {w : Work} (hmode : w.wr.mode = .write)
    (hcap : 4 * (w.wr.wwords.toNat + 1) ≤ w.wr.cap.toNat) :
    emitWord v w = .ok { w with
      mem := w.mem.writeWord (w.wr.base + BitVec.ofNat 32 (4 * w.wr.wwords.toNat)) v
      wr := { w.wr with words := w.wr.words + 1 } } := by
  rw [emitWord, if_neg (not_lt.mpr hcap), hmode]

theorem emitWord_ok_capacity {v : Word} {w w' : Work} (h : emitWord v w = .ok w') :
    4 * (w.wr.wwords.toNat + 1) ≤ w.wr.cap.toNat := by
  by_contra hcap
  rw [emitWord_noSpace (not_le.mp hcap)] at h
  cases h

/-- Settles O51, by the writer's mode. -/
theorem emitWordRespectsCapacity : Obligations.EmitWordRespectsCapacity := by
  unfold Obligations.EmitWordRespectsCapacity
  refine fun v w => ⟨emitWord_noSpace, fun hcap => ?_⟩
  cases hmode : w.wr.mode with
  | measure => exact ⟨w.mem, emitWord_measure hmode hcap, fun _ => rfl, nofun⟩
  | write =>
    exact ⟨_, emitWord_write hmode hcap, nofun,
      fun _ => ⟨fun j hj => read_writeWord_same _ _ _ j hj, writeWord_sameExcept _ _ _⟩⟩

/-! Stream bits in memory (R606). -/

/-- R606: the bits of the words already emitted do not change while the payload grows. -/
theorem streamBit_of_emits {w w' : Work} (h : Emits w w') (hclean : w.wr.Clean) {b : Nat}
    (hb : b < 32 * w.wr.wwords.toNat) : streamBit w'.mem w'.wr.base b = streamBit w.mem w.wr.base b := by
  obtain ⟨-, hcap, -⟩ := hclean
  rw [wwords_toNat] at hb hcap
  have hbound := h.bound hcap
  have hcap32 := w.wr.cap.isLt
  have hread := h.frame (w.wr.base + BitVec.ofNat 32 (b / 8)) fun j hlow hhigh heq => by
    have := ofNat_add_inj (by omega) (by omega) heq
    omega
  rw [streamBit, streamBit, h.base, hread]

/-- R602: bit `i` of the word emitted at word index `q` is stream bit `32 q + i`. -/
theorem streamBit_writeWord (m : Memory) (base v : Word) (q : Nat) {i : Nat} (hi : i < 32) :
    streamBit (m.writeWord (base + BitVec.ofNat 32 (4 * q)) v) base (32 * q + i) = v.getLsbD i := by
  have hbyte : base + BitVec.ofNat 32 ((32 * q + i) / 8) =
      base + BitVec.ofNat 32 (4 * q) + BitVec.ofNat 32 (i / 8) := by
    rw [BitVec.add_assoc, ← BitVec.ofNat_add]
    congr 2
    omega
  have hbit : (32 * q + i) % 8 = i % 8 := by omega
  have hlt : i % 8 < 8 := Nat.mod_lt _ (by decide)
  rw [streamBit, hbyte, read_writeWord_same _ _ _ _ (by omega), hbit, BitVec.getLsbD_extractLsb', decide_eq_true hlt,
    Bool.true_and, Nat.div_add_mod]

/-! The value `t` of `PutBits` (R601). -/

/-- The pending bits with `v` put above them on 64 bits. -/
def pendingWith (v : Nat) (wr : Writer) : BitVec 64 :=
  wr.acc.zeroExtend 64 ||| (BitVec.ofNat 64 v <<< wr.k.toNat)

theorem pendingWith_toNat {v : Nat} (hv : v < 2 ^ 32) (wr : Writer) :
    (pendingWith v wr).toNat = wr.acc.toNat ||| v <<< wr.k.toNat := by
  have hacc := wr.acc.isLt
  have hk := wr.k.isLt
  have hshift : v * 2 ^ wr.k.toNat < 2 ^ 64 :=
    calc v * 2 ^ wr.k.toNat ≤ v * 2 ^ 32 := Nat.mul_le_mul_left _ (Nat.pow_le_pow_right (by decide) (by omega))
      _ < 2 ^ 64 := by omega
  rw [pendingWith, BitVec.toNat_or, BitVec.toNat_shiftLeft, BitVec.toNat_ofNat, BitVec.zeroExtend, BitVec.toNat_setWidth,
    Nat.mod_eq_of_lt (by omega), Nat.mod_eq_of_lt (a := v) (by omega), Nat.shiftLeft_eq, Nat.mod_eq_of_lt hshift]

/-- R600: above the pending bits and the new ones `t` is 0. -/
theorem pendingWith_lt {v k : Nat} {wr : Writer} (hclean : wr.Clean) (hk : k ≤ 32) (hv : v < 2 ^ k) :
    (pendingWith v wr).toNat < 2 ^ (wr.k.toNat + k) := by
  obtain ⟨hacc, -, -⟩ := hclean
  rw [pendingWith_toNat (hv.trans_le (Nat.pow_le_pow_right (by decide) hk))]
  refine Nat.or_lt_two_pow (hacc.trans_le (Nat.pow_le_pow_right (by decide) (Nat.le_add_right _ _))) ?_
  rw [Nat.shiftLeft_eq, Nat.add_comm, Nat.pow_add]
  exact Nat.mul_lt_mul_of_pos_right hv (Nat.two_pow_pos _)

/-- R601: `t` holds the pending bits, then the bits of `v`. -/
theorem pendingWith_getLsbD {v : Nat} {wr : Writer} (hclean : wr.Clean) (hv : v < 2 ^ 32) (i : Nat) :
    (pendingWith v wr).getLsbD i = if i < wr.k.toNat then wr.acc.getLsbD i else v.testBit (i - wr.k.toNat) := by
  obtain ⟨hacc, -, -⟩ := hclean
  rw [BitVec.getLsbD, pendingWith_toNat hv, Nat.testBit_or, Nat.testBit_shiftLeft]
  split
  · rename_i hi
    rw [decide_eq_false (by omega), Bool.false_and, Bool.or_false, BitVec.getLsbD]
  · rename_i hi
    have habove : wr.acc.toNat.testBit i = false :=
      Nat.testBit_lt_two_pow (hacc.trans_le (Nat.pow_le_pow_right (by decide) (not_lt.mp hi)))
    rw [habove, Bool.false_or, decide_eq_true (not_lt.mp hi), Bool.true_and]

/-! `PutBits` (R601). -/

theorem putBits_pending {v k : Nat} {w : Work} (hk : w.wr.k.toNat + k < 32) :
    putBits v k w = .ok { w with wr := { w.wr with
      acc := (pendingWith v w.wr).extractLsb' 0 32, k := BitVec.ofNat 5 (w.wr.k.toNat + k) } } :=
  if_neg (not_le.mpr hk)

theorem putBits_emitting {v k : Nat} {w : Work} (hk : 32 ≤ w.wr.k.toNat + k) :
    putBits v k w = (emitWord ((pendingWith v w.wr).extractLsb' 0 32) w).andThen fun w1 => .ok { w1 with wr := { w1.wr with
      acc := (pendingWith v w.wr).extractLsb' 32 32, k := BitVec.ofNat 5 (w.wr.k.toNat + k - 32) } } :=
  if_pos hk

theorem putBits_noSpace {v k : Nat} {w : Work} (hk : 32 ≤ w.wr.k.toNat + k)
    (hcap : w.wr.cap.toNat < 4 * (w.wr.wwords.toNat + 1)) : putBits v k w = .noSpace w := by
  rw [putBits_emitting hk, emitWord_noSpace hcap]; rfl

theorem putBits_write {v k : Nat} {w : Work} (hmode : w.wr.mode = .write) (hk : 32 ≤ w.wr.k.toNat + k)
    (hcap : 4 * (w.wr.wwords.toNat + 1) ≤ w.wr.cap.toNat) :
    putBits v k w = .ok { w with
      mem := w.mem.writeWord (w.wr.base + BitVec.ofNat 32 (4 * w.wr.wwords.toNat)) ((pendingWith v w.wr).extractLsb' 0 32)
      wr := { w.wr with
        words := w.wr.words + 1
        acc := (pendingWith v w.wr).extractLsb' 32 32
        k := BitVec.ofNat 5 (w.wr.k.toNat + k - 32) } } := by
  rw [putBits_emitting hk, emitWord_write hmode hcap]; rfl

/-- The payload that a `PutBits` which goes on emits. -/
theorem emits_of_putBits_ok {v k : Nat} {w w' : Work} (h : putBits v k w = .ok w') : Emits w w' := by
  have hemits := putBits_emits v k w
  rwa [h] at hemits

/-- R602: with 32 bits or more pending, a `PutBits` that goes on emits one word, which the capacity holds. -/
theorem putBits_emits_word {v k : Nat} {w w' : Work} (hk : 32 ≤ w.wr.k.toNat + k) (h : putBits v k w = .ok w') :
    4 * (w.wr.wwords.toNat + 1) ≤ w.wr.cap.toNat ∧ w'.wr.wwords.toNat = w.wr.wwords.toNat + 1 := by
  rw [putBits_emitting hk] at h
  obtain ⟨w1, hemit, hok⟩ := andThen_eq_ok h
  have hwords := emitWord_words hemit
  cases hok
  exact ⟨emitWord_ok_capacity hemit, hwords⟩

/-- R600: `PutBits` keeps the writer's pending bits below `WK`. -/
theorem putBits_pending_lt {v k : Nat} {w w' : Work} (hclean : w.wr.Clean) (hk : k ≤ 32) (hv : v < 2 ^ k)
    (h : putBits v k w = .ok w') : w'.wr.acc.toNat < 2 ^ w'.wr.k.toNat := by
  have hlt := pendingWith_lt hclean hk hv
  have hpending := w.wr.k.isLt
  rcases Nat.lt_or_ge (w.wr.k.toNat + k) 32 with hstay | hword
  · rw [putBits_pending hstay] at h
    cases h
    rw [BitVec.extractLsb'_toNat, BitVec.toNat_ofNat, Nat.mod_eq_of_lt (b := 2 ^ 5) hstay, Nat.shiftRight_zero]
    exact (Nat.mod_le _ _).trans_lt hlt
  · rw [putBits_emitting hword] at h
    obtain ⟨w1, -, hok⟩ := andThen_eq_ok h
    cases hok
    rw [BitVec.extractLsb'_toNat, BitVec.toNat_ofNat, Nat.mod_eq_of_lt (b := 2 ^ 5) (by omega), Nat.shiftRight_eq_div_pow]
    refine (Nat.mod_le _ _).trans_lt (Nat.div_lt_of_lt_mul ?_)
    rwa [← Nat.pow_add, Nat.add_sub_cancel' hword]

theorem putBits_clean {v k : Nat} {w w' : Work} (hclean : w.wr.Clean) (hk : k ≤ 32) (hv : v < 2 ^ k)
    (h : putBits v k w = .ok w') : w'.wr.Clean := by
  have hemits := emits_of_putBits_ok h
  have hpending := putBits_pending_lt hclean hk hv h
  obtain ⟨-, hcap, hrange⟩ := hclean
  rw [wwords_toNat] at hcap
  refine ⟨hpending, ?_, ?_⟩
  · rw [wwords_toNat, hemits.cap]; exact hemits.bound hcap
  · rwa [hemits.cap, hemits.base]

/-! The stream after `PutBits` (R606). -/

/-- A 32-bit field that reaches the top of a number has all the bits from its start on. -/
theorem getLsbD_extractLsb'_top {t : BitVec 64} {start : Nat} (ht : t.toNat < 2 ^ (start + 32)) (i : Nat) :
    (t.extractLsb' start 32).getLsbD i = t.getLsbD (start + i) := by
  rw [BitVec.getLsbD_extractLsb']
  by_cases hi : i < 32
  · rw [decide_eq_true hi, Bool.true_and]
  · have hhigh : t.toNat < 2 ^ (start + i) := ht.trans_le (Nat.pow_le_pow_right (by decide) (by omega))
    rw [decide_eq_false hi, Bool.false_and, BitVec.getLsbD, Nat.testBit_lt_two_pow hhigh]

theorem bit_eq_streamBit {w : Work} {b : Nat} (hb : b < 32 * w.wr.wwords.toNat) :
    w.bit b = streamBit w.mem w.wr.base b := if_pos hb

theorem bit_eq_pending {w : Work} {q : Nat} (hq : w.wr.wwords.toNat = q) (i : Nat) :
    w.bit (32 * q + i) = w.wr.acc.getLsbD i := by
  subst hq
  rw [Work.bit, if_neg (by omega), Nat.add_sub_cancel_left]

theorem putBits_bit_emitted {v k : Nat} {w w' : Work} (hclean : w.wr.Clean) (h : putBits v k w = .ok w') {b : Nat}
    (hb : b < 32 * w.wr.wwords.toNat) : w'.bit b = w.bit b := by
  have hemits := emits_of_putBits_ok h
  have hgrows : w.wr.wwords.toNat ≤ w'.wr.wwords.toNat := by simpa only [wwords_toNat] using hemits.grows
  rw [bit_eq_streamBit hb, bit_eq_streamBit (by omega), streamBit_of_emits hemits hclean hb]

/-- From the first bit that was not yet emitted on, the stream is `t`. -/
theorem putBits_bit_pending {v k : Nat} {w w' : Work} (hclean : w.wr.Clean) (hmode : w.wr.mode = .write) (hk : k ≤ 32)
    (hv : v < 2 ^ k) (h : putBits v k w = .ok w') (i : Nat) :
    w'.bit (32 * w.wr.wwords.toNat + i) = (pendingWith v w.wr).getLsbD i := by
  have hlt := pendingWith_lt hclean hk hv
  rcases Nat.lt_or_ge (w.wr.k.toNat + k) 32 with hstay | hword
  · rw [putBits_pending hstay] at h
    cases h
    have hlow : (pendingWith v w.wr).toNat < 2 ^ (0 + 32) :=
      hlt.trans_le (Nat.pow_le_pow_right (by decide) (by omega))
    have hfield := getLsbD_extractLsb'_top hlow i
    rw [Nat.zero_add] at hfield
    exact (bit_eq_pending rfl i).trans hfield
  · obtain ⟨hcap, hwords⟩ := putBits_emits_word hword h
    rw [putBits_write hmode hword hcap] at h
    cases h
    by_cases hi : i < 32
    · refine (bit_eq_streamBit (by rw [hwords]; omega)).trans ?_
      rw [streamBit_writeWord _ _ _ _ hi, BitVec.getLsbD_extractLsb', decide_eq_true hi, Bool.true_and, Nat.zero_add]
    · obtain ⟨j, rfl⟩ := Nat.exists_eq_add_of_le (not_lt.mp hi)
      rw [← Nat.add_assoc, ← Nat.mul_succ]
      exact (bit_eq_pending hwords j).trans (getLsbD_extractLsb'_top (BitVec.isLt _) j)

theorem putBits_ok {v k : Nat} {w : Work} (hmode : w.wr.mode = .write)
    (hroom : w.wr.k.toNat + k < 32 ∨ 4 * (w.wr.wwords.toNat + 1) ≤ w.wr.cap.toNat) : ∃ w', putBits v k w = .ok w' := by
  rcases Nat.lt_or_ge (w.wr.k.toNat + k) 32 with hstay | hword
  · exact ⟨_, putBits_pending hstay⟩
  · exact ⟨_, putBits_write hmode hword (hroom.resolve_left (not_lt.mpr hword))⟩

/-- Settles O52: the bits emitted before stay, and after them stands `t`, the pending bits and then those of `v`. -/
theorem putBitsAppendsToStream : Obligations.PutBitsAppendsToStream := by
  unfold Obligations.PutBitsAppendsToStream
  intro v k w hclean hmode hk hv
  have ht := pendingWith_getLsbD hclean (hv.trans_le (Nat.pow_le_pow_right (by decide) hk))
  refine ⟨fun hroom => ?_, putBits_noSpace⟩
  obtain ⟨w', h⟩ := putBits_ok hmode hroom
  have hstream := putBits_bit_pending hclean hmode hk hv h
  refine ⟨w', h, putBits_clean hclean hk hv h, putBits_position hk h, fun b hb => ?_, fun j _ => ?_⟩
  · by_cases hemitted : b < 32 * w.wr.wwords.toNat
    · exact putBits_bit_emitted hclean h hemitted
    · obtain ⟨i, rfl⟩ := Nat.exists_eq_add_of_le (not_lt.mp hemitted)
      have hi : i < w.wr.k.toNat := Nat.lt_of_add_lt_add_left hb
      rw [hstream, ht, if_pos hi, bit_eq_pending rfl]
  · rw [Writer.position, Nat.add_assoc, hstream, ht, if_neg (by omega), Nat.add_sub_cancel_left]

end Sys2Proof.Proofs

/-! PROOFS. `GetBits` of a coherent reader (46_bit_reader.md R650 to R652): the pending bits and the bits of the next payload
word are consecutive bits of the stream, so the value is compared with the stream bit by bit, and a word is missing exactly
where the whole words of the payload end. -/

namespace Sys2Proof.Proofs

open Sys2Proof Sys2Proof.Machine Sys2Proof.Laws

/-! Numbers of stream bits. -/

theorem testBit_streamNat (mem : Memory) (base : Word) (pos k i : Nat) :
    (streamNat mem base pos k).testBit i = (decide (i < k) && streamBit mem base (pos + i)) := by
  induction k generalizing pos i with
  | zero => simp [streamNat]
  | succ k ih =>
    rw [streamNat]
    have hbit := Bool.toNat_lt (streamBit mem base pos)
    cases i with
    | zero => rw [Nat.testBit_zero]; cases streamBit mem base pos <;> simp
    | succ i =>
      rw [Nat.testBit_succ, show ((streamBit mem base pos).toNat + 2 * streamNat mem base (pos + 1) k) / 2
        = streamNat mem base (pos + 1) k by omega, ih, Nat.add_assoc, Nat.add_comm 1 i]
      simp

/-- A word whose bits are the stream's is the number that the stream holds (R651). -/
theorem toNat_eq_streamNat {mem : Memory} {base v : Word} {pos k : Nat}
    (h : ∀ i, v.getLsbD i = (decide (i < k) && streamBit mem base (pos + i))) : v.toNat = streamNat mem base pos k :=
  Nat.eq_of_testBit_eq (fun i => (h i).trans (testBit_streamNat mem base pos k i).symm)

theorem getLsbD_maskWord {k : Nat} (hk : k ≤ 32) (i : Nat) : (maskWord k).getLsbD i = decide (i < k) := by
  rw [BitVec.getLsbD, maskWord_toNat hk, Nat.testBit_two_pow_sub_one]

/-! The bits that are left (R652). -/

section
variable {mem : Memory} {r r' : Reader} {k v : Nat}

/-- Bits that `GetBits` answers are bits of whole payload words. -/
theorem getBits_ok_room (hc : r.Coherent mem) (hk : k ≤ 32) (h : getBits mem k r = .ok (v, r')) :
    r.position + k ≤ r.bits := by
  obtain ⟨halign, hpending, hrp, _⟩ := hc
  rw [Reader.position, Reader.bits] at *
  rcases getBits_ok h with ⟨_, _, _⟩ | ⟨_, hroom, _, _⟩ <;> omega

/-- Where `GetBits` raises, the missing word is the one after the last whole word. -/
theorem getBits_error_room (hc : r.Coherent mem) {e : Stop} (h : getBits mem k r = .error e) :
    e = .error .truncatedInput (offsetAt r.bits) ∧ r.bits < r.position + k := by
  obtain ⟨rfl, hmore, hend⟩ := getBits_error h
  obtain ⟨halign, hpending, hrp, _⟩ := hc
  have hword : 4 * ((r.bits + 31) / 32) = r.rp.toNat := by rw [Reader.bits]; omega
  refine ⟨?_, by rw [Reader.position, Reader.bits]; omega⟩
  rw [offsetAt, hword, BitVec.ofNat_add, BitVec.ofNat_toNat, BitVec.setWidth_eq]; rfl

/-! The value and the reader after it (R651). -/

/-- Bits served from `RACC`. -/
theorem getBits_pending (hc : r.Coherent mem) (hk : k ≤ r.k.toNat) :
    (r.acc &&& maskWord k).toNat = streamNat mem r.base r.position k ∧
    Reader.position { r with acc := r.acc >>> k, k := BitVec.ofNat 5 (r.k.toNat - k) } = r.position + k ∧
    Reader.Coherent mem { r with acc := r.acc >>> k, k := BitVec.ofNat 5 (r.k.toNat - k) } := by
  obtain ⟨halign, hpending, hrp, hacc⟩ := hc
  have hlt := r.k.isLt
  have hleft : (BitVec.ofNat 5 (r.k.toNat - k)).toNat = r.k.toNat - k := by
    rw [BitVec.toNat_ofNat, Nat.mod_eq_of_lt (by omega)]
  refine ⟨toNat_eq_streamNat fun i => ?_, ?_, halign, ?_, hrp, fun i => ?_⟩
  · rw [BitVec.getLsbD_and, hacc, getLsbD_maskWord (by omega)]
    by_cases hi : i < k
    · simp [hi, hi.trans_le hk]
    · simp [hi]
  · simp only [Reader.position, hleft]; omega
  · simp only [hleft]; omega
  · simp only [Reader.position, hleft, BitVec.getLsbD_ushiftRight, hacc]
    congr 2
    · exact propext (by omega)
    · omega

/-- The reader after `GetBits(k)` has loaded a word, of which the first `k - RK` bits complete the value. -/
def afterRefill (mem : Memory) (k : Nat) (r : Reader) : Reader :=
  { r with
    rp := r.rp + 4
    acc := if k - r.k.toNat = 32 then 0 else mem.readWord (r.base + r.rp) >>> (k - r.k.toNat)
    k := BitVec.ofNat 5 (32 - (k - r.k.toNat)) }

/-- The bits that stay pending of a word are those above the `j` that are used. -/
theorem getLsbD_wordRest {w : Word} {j : Nat} (hj : j ≤ 32) (i : Nat) :
    (if j = 32 then 0 else w >>> j).getLsbD i = (decide (i < 32 - j) && w.getLsbD (j + i)) := by
  split
  next hall => simp [hall]
  next =>
    rw [BitVec.getLsbD_ushiftRight]
    by_cases hi : i < 32 - j
    · simp [hi]
    · rw [BitVec.getLsbD_of_ge w (j + i) (by omega), Bool.and_false]

/-- The value of bits for which a word is loaded: the pending ones, then the first ones of the word. -/
theorem getBits_refill_value (hc : r.Coherent mem) (hk : k ≤ 32) (hmore : r.k.toNat < k) :
    (r.acc ||| ((mem.readWord (r.base + r.rp) &&& maskWord (k - r.k.toNat)) <<< r.k.toNat)).toNat =
      streamNat mem r.base r.position k := by
  obtain ⟨_, hpending, _, hacc⟩ := hc
  refine toNat_eq_streamNat fun i => ?_
  rw [BitVec.getLsbD_or, hacc, BitVec.getLsbD_shiftLeft, BitVec.getLsbD_and, getLsbD_maskWord (by omega)]
  by_cases hold : i < r.k.toNat
  · simp [hold, hold.trans hmore]
  · by_cases hi : i < k
    · rw [readWord_getLsbD _ _ _ (show i - r.k.toNat < 32 by omega)]
      simp [hold, hi, Reader.position, show i < 32 by omega, show i - r.k.toNat < k - r.k.toNat by omega,
        show 8 * r.rp.toNat + (i - r.k.toNat) = 8 * r.rp.toNat - r.k.toNat + i by omega]
    · simp [hold, hi, show ¬ i - r.k.toNat < k - r.k.toNat by omega]

theorem afterRefill_spec (hc : r.Coherent mem) (hk : k ≤ 32) (hmore : r.k.toNat < k)
    (hroom : r.rp.toNat + 4 ≤ r.len.toNat) :
    (afterRefill mem k r).position = r.position + k ∧ (afterRefill mem k r).Coherent mem := by
  obtain ⟨halign, hpending, _, _⟩ := hc
  have hlen := r.len.isLt
  have hrp : (r.rp + 4).toNat = r.rp.toNat + 4 := by
    rw [BitVec.toNat_add, Nat.mod_eq_of_lt (by simp; omega)]; rfl
  have hleft : (BitVec.ofNat 5 (32 - (k - r.k.toNat))).toNat = 32 - (k - r.k.toNat) := by
    rw [BitVec.toNat_ofNat, Nat.mod_eq_of_lt (by omega)]
  simp only [Reader.Coherent, Reader.position, afterRefill, hrp, hleft]
  refine ⟨by omega, by omega, by omega, by omega, fun i => ?_⟩
  rw [getLsbD_wordRest (by omega)]
  by_cases hi : i < 32 - (k - r.k.toNat)
  · rw [readWord_getLsbD _ _ _ (by omega)]
    congr 2; omega
  · rw [decide_eq_false hi, Bool.false_and, Bool.false_and]

/-- What `GetBits` answers is the next stream bits, and it moves past them. -/
theorem getBits_spec (hc : r.Coherent mem) (hk : k ≤ 32) (h : getBits mem k r = .ok (v, r')) :
    v = streamNat mem r.base r.position k ∧ r'.position = r.position + k ∧ r'.Coherent mem := by
  rcases getBits_ok h with ⟨hle, rfl, rfl⟩ | ⟨hmore, hroom, rfl, rfl⟩
  · exact getBits_pending hc hle
  · exact ⟨getBits_refill_value hc hk hmore, afterRefill_spec hc hk hmore hroom⟩

/-- `GetBits` past the last whole word. -/
theorem getBits_truncated (hc : r.Coherent mem) (hk : k ≤ 32) (hshort : r.bits < r.position + k) :
    getBits mem k r = .error (.error .truncatedInput (offsetAt r.bits)) := by
  cases h : getBits mem k r with
  | error e => rw [(getBits_error_room hc h).1]
  | ok a => exact absurd (getBits_ok_room (v := a.1) (r' := a.2) hc hk h) (Nat.not_le.mpr hshort)

end

/-- Settles O54: whether `GetBits` answers or raises is a matter of the bits that are left, and each answer is the stream's. -/
theorem getBitsReadsStream : Obligations.GetBitsReadsStream := by
  unfold Obligations.GetBitsReadsStream
  intro mem r k hc hk
  refine ⟨fun hroom => ?_, getBits_truncated hc hk⟩
  cases h : getBits mem k r with
  | error e => exact absurd hroom (Nat.not_le.mpr (getBits_error_room hc h).2)
  | ok a =>
    obtain ⟨v, r'⟩ := a
    obtain ⟨hv, hpos, hc'⟩ := getBits_spec hc hk h
    exact ⟨r', by rw [hv], hpos, hc', getBits_keeps h⟩

end Sys2Proof.Proofs

/-! PROOFS. The bit reader stays in agreement with its payload (46_bit_reader.md R650 to R653). The decoder's fetches move the
reader along the stream; what the engine writes lies in the destination, and what the host may write lies outside the source
(20_memory.md R202, R213), so the payload's bytes stay. -/

namespace Sys2Proof.Proofs

open Sys2Proof Sys2Proof.Machine Sys2Proof.Laws

/-! Readers that move along their payload. -/

/-- The reader `r'` reads the payload of `r` further on, and still agrees with it. -/
structure Advances (mem : Memory) (r r' : Reader) : Prop where
  base : r'.base = r.base
  len : r'.len = r.len
  coherent : r.Coherent mem → r'.Coherent mem

theorem Advances.refl (mem : Memory) (r : Reader) : Advances mem r r := ⟨rfl, rfl, id⟩

theorem Advances.trans {mem : Memory} {r r1 r2 : Reader} (h1 : Advances mem r r1) (h2 : Advances mem r1 r2) :
    Advances mem r r2 :=
  ⟨h2.base.trans h1.base, h2.len.trans h1.len, fun hc => h2.coherent (h1.coherent hc)⟩

section
variable {mem : Memory} {r r' : Reader}

theorem getBits_advances {k v : Nat} (hk : k ≤ 32) (h : getBits mem k r = .ok (v, r')) : Advances mem r r' := by
  obtain ⟨hbase, hlen⟩ := getBits_keeps h
  exact ⟨hbase, hlen, fun hc => (getBits_spec hc hk h).2.2⟩

theorem alignReader_advances (h : alignReader mem r = .ok r') : Advances mem r r' := by
  obtain ⟨v, hbits⟩ := alignReader_ok h
  exact getBits_advances (by omega) hbits

theorem getCodeFrom_advances {tree : List Slot} {fuel node sym : Nat}
    (h : getCodeFrom mem tree fuel node r = .ok (sym, r')) : Advances mem r r' := by
  induction fuel generalizing node r with
  | zero => cases h
  | succ fuel ih =>
    rw [getCodeFrom] at h
    split at h
    · cases h
    next b r1 hbit =>
      have hadv : Advances mem r r1 := getBits_advances (by decide) hbit
      split at h
      · cases h
      · cases h; exact hadv
      · exact hadv.trans (ih h)

theorem readToken_advances {f : Format} {tree : List Slot} {p : Nat → Bool} {i : Instr}
    (h : readToken mem f tree p r = .ok (i, r')) : Advances mem r r' := by
  obtain ⟨sym, r1, x, hcode, hextra, _⟩ := readToken_ok h
  have hwidth : (if p sym then extraBits f sym else 0) ≤ 32 := by
    have := extraBits_le f sym
    split <;> omega
  exact (getCodeFrom_advances hcode).trans (getBits_advances hwidth hextra)

theorem readBlockType_advances {i : Instr} (h : readBlockType mem r = .ok (i, r')) : Advances mem r r' := by
  unfold readBlockType at h
  split at h
  · cases h
  next b r1 hbit =>
    split at h
    · cases h; exact getBits_advances (by decide) hbit
    · cases h

theorem readLengths3_advances {k : Nat} {lens : List Nat} (h : readLengths3 mem k r = .ok (lens, r')) :
    Advances mem r r' := by
  induction k generalizing lens r with
  | zero => cases h; exact .refl _ _
  | succ k ih =>
    rw [readLengths3] at h
    split at h
    · cases h
    next v r1 hbits =>
      split at h
      · cases h
      next vs r2 hrest => cases h; exact (getBits_advances (by decide) hbits).trans (ih hrest)

end

/-! The payload's bytes. -/

/-- Two memories hold the same bytes of a reader's payload. -/
def SamePayload (m m' : Memory) (r : Reader) : Prop :=
  ∀ j < r.len.toNat, m'.read (r.base + BitVec.ofNat 32 j) = m.read (r.base + BitVec.ofNat 32 j)

/-- Pending bits come from payload bytes that are loaded already (R650). -/
theorem coherent_of_samePayload {m m' : Memory} {r : Reader} (hc : r.Coherent m) (h : SamePayload m m' r) :
    r.Coherent m' := by
  obtain ⟨halign, hpending, hrp, hacc⟩ := hc
  refine ⟨halign, hpending, hrp, fun i => ?_⟩
  rw [hacc i]
  by_cases hi : i < r.k.toNat
  · rw [streamBit, streamBit, h _ (by rw [Reader.position]; omega)]
  · rw [decide_eq_false hi, Bool.false_and, Bool.false_and]

/-- The bytes of a stored block, read from a payload that they are not written to (R703). -/
theorem storedBytes_coherent {dst : Word} {k i : Nat} {m m' : Memory} {r r' : Reader} (hc : r.Coherent m)
    (hapart : ∀ a < r.len.toNat, ∀ b, i ≤ b → b < i + k → r.base + BitVec.ofNat 32 a ≠ dst + BitVec.ofNat 32 b)
    (h : storedBytes dst k i m r = .ok (m', r')) : r'.Coherent m' := by
  induction k generalizing i m r with
  | zero => cases h; exact hc
  | succ k ih =>
    rw [storedBytes] at h
    split at h
    · cases h
    next b r1 hbits =>
      obtain ⟨hbase, hlen, hadv⟩ := getBits_advances (by decide) hbits
      rw [← hbase, ← hlen] at hapart
      refine ih (coherent_of_samePayload (hadv hc) fun a ha => ?_) (fun a ha c hlo hhi => ?_) h
      · exact read_write_other _ _ (hapart a ha i le_rfl (by omega))
      · exact hapart a ha c (by omega) (by omega)

/-- A legal source does not wrap and shares no byte with the destination (20_memory.md R202). -/
theorem src_unwrapped {l : Latched} (h : l.rangesBad = false) : l.src.toNat + l.n.toNat ≤ 2 ^ 32 := by
  simp only [Latched.rangesBad, Bool.or_eq_false_iff, rangeWraps, decide_eq_false_iff_not] at h
  omega

theorem not_inRange_dst_of_src {l : Latched} {x : Word} (h : l.rangesBad = false) (hx : inRange x l.src l.n = true) :
    inRange x l.dst l.cap = false := by
  simp only [Latched.rangesBad, Bool.or_eq_false_iff, rangesMeet, decide_eq_false_iff_not] at h
  simp only [inRange, decide_eq_true_eq, decide_eq_false_iff_not] at hx ⊢
  omega

/-- A payload byte is a source byte (20_memory.md R204). -/
theorem payload_inRange_src {s : State} {j : Nat} (h : s.readerReady) (hbad : s.lat.rangesBad = false)
    (hj : j < s.rd.len.toNat) : inRange (s.rd.base + BitVec.ofNat 32 j) s.lat.src s.lat.n = true := by
  obtain ⟨hn, hbase, hlen, _⟩ := h
  have hlen' : s.rd.len.toNat = s.lat.n.toNat - 4 := by rw [hlen]; exact BitVec.toNat_sub_of_le hn
  exact inRange_within (off := 4) (src_unwrapped hbad) hbase (by simp; omega)

/-- The reader of a state whose memory and reader changed, but not its payload. -/
theorem readerReady_of_samePayload {s t : State} (h : s.readerReady) (hl : t.lat = s.lat) (hr : t.rd = s.rd)
    (hm : SamePayload s.mem t.mem s.rd) : t.readerReady := by
  obtain ⟨hn, hbase, hlen, hc⟩ := h
  rw [State.readerReady, hl, hr]
  exact ⟨hn, hbase, hlen, coherent_of_samePayload hc hm⟩

theorem readerReady_of_sameOutside {s t : State} (h : s.readerReady) (hbad : s.lat.rangesBad = false) (hl : t.lat = s.lat)
    (hr : t.rd = s.rd) (hm : SameOutside s.mem t.mem s.lat.dst s.lat.cap) : t.readerReady :=
  readerReady_of_samePayload h hl hr fun _ hj => hm _ (not_inRange_dst_of_src hbad (payload_inRange_src h hbad hj))

theorem readerReady_of_advances {s t : State} (h : s.readerReady) (hl : t.lat = s.lat) (hm : t.mem = s.mem)
    (hr : Advances s.mem s.rd t.rd) : t.readerReady := by
  obtain ⟨hn, hbase, hlen, hc⟩ := h
  rw [State.readerReady, hl, hm]
  exact ⟨hn, hr.base.trans hbase, hr.len.trans hlen, hr.coherent hc⟩

/-! The invariant. -/

/-- The decoder states in which the next token comes from the stream (30_encoding.md R314). -/
def ReadsStream (s : State) : Prop :=
  s.phase = .block ∨ (∃ q c j, s.phase = .rle q c j) ∨ s.phase = .symbol ∨ ∃ len, s.phase = .dist len

theorem streamInv_iff (s : State) : s.StreamInv ↔ (ReadsStream s → s.tainted = false → s.readerReady) := by
  unfold State.StreamInv ReadsStream
  cases s.phase <;> simp

theorem streamInv_of_ready {s : State} (h : s.tainted = false → s.readerReady) : s.StreamInv :=
  (streamInv_iff s).mpr fun _ => h

theorem streamInv_of_not_reads {s : State} (h : ¬ ReadsStream s) : s.StreamInv :=
  (streamInv_iff s).mpr fun hr => absurd hr h

theorem streamInv_of_idle {s : State} (h : s.phase = .idle) : s.StreamInv :=
  streamInv_of_not_reads (by simp [ReadsStream, h])

/-- A state of the same phase, with the mark of a spoiled command at least as set. -/
theorem streamInv_of_frame {s t : State} (h : s.StreamInv) (hp : t.phase = s.phase) (ht : t.tainted = false → s.tainted = false)
    (hr : ReadsStream s → t.tainted = false → s.readerReady → t.readerReady) : t.StreamInv := by
  rw [streamInv_iff] at h ⊢
  intro hreads hclean
  rw [ReadsStream, hp] at hreads
  exact hr hreads hclean (h hreads (ht hclean))

theorem streamInv_raiseError (s : State) (e : ErrCode) (info : Word) : (s.raiseError e info).StreamInv :=
  streamInv_of_idle (raiseError_phase s e info)

theorem streamInv_complete (s : State) (len : Word) (form fallback : Bool) : (s.complete len form fallback).StreamInv :=
  streamInv_of_idle (complete_phase s len form fallback)

theorem streamInv_blockLoop {s : State} (h : s.tainted = false → s.readerReady) : s.blockLoop.StreamInv := by
  rcases blockLoop_cases s with ⟨_, e⟩ | ⟨_, e⟩ <;> rw [e]
  · exact h
  · exact streamInv_complete _ _ _ _

theorem streamInv_symbolLoop {s : State} (h : s.tainted = false → s.readerReady) : s.symbolLoop.StreamInv := by
  rcases symbolLoop_cases s with ⟨_, _, e⟩ | ⟨_, e⟩ <;> rw [e]
  · exact h
  · exact streamInv_blockLoop h

/-! Commands and headers. -/

theorem streamInv_commandWork {i : Instr} {s t : State} (h : CommandWork i s t) : t.StreamInv := by
  by_cases hi : i = .decompress
  · subst hi
    have ht : t = s.decompressWork := by simpa [CommandWork] using h
    rcases decompressWork_cases s with ⟨e, _, hw⟩ | ⟨_, hw⟩ <;> rw [ht, hw]
    · exact streamInv_raiseError _ _ _
    · exact trivial
  · exact streamInv_of_idle (commandWork_idle hi h)

theorem streamInv_storedHeader (s : State) (w : Word) : (s.storedHeader w).StreamInv := by
  rcases storedHeader_cases s w with ⟨_, h⟩ | ⟨_, _, h⟩ | ⟨_, _, h⟩ <;> rw [h]
  · exact streamInv_raiseError _ _ _
  · exact streamInv_raiseError _ _ _
  · exact streamInv_complete _ _ _ _

/-- A reader that has loaded nothing (R650). -/
theorem initial_reader_coherent (mem : Memory) (l : Latched) : l.reader.Coherent mem := by
  simp [Reader.Coherent, Latched.reader]

theorem streamInv_huffmanHeader {s : State} (hd : s.DstInv) (hp : s.phase = .header) (w : Word) :
    (s.huffmanHeader w).StreamInv := by
  simp only [State.DstInv, hp] at hd
  obtain ⟨_, _, hn⟩ := hd
  rcases huffmanHeader_cases s w with ⟨_, h⟩ | ⟨_, h⟩ <;> rw [h]
  · exact streamInv_raiseError _ _ _
  · exact streamInv_blockLoop fun _ => ⟨hn, rfl, rfl, initial_reader_coherent _ _⟩

/-! Blocks and tokens. -/

section
variable {s t : State} (ready : s.tainted = false → s.readerReady)
include ready

theorem streamInv_storedBlockWork (hr : s.outputRoom) (h : s.storedBlockWork = .next t) : t.StreamInv := by
  rcases storedBlockWork_next h with ⟨c, info, rfl⟩ | ⟨e, r1, r2, mem, r3, hcount, halign, hbytes, rfl⟩
  · exact streamInv_raiseError _ _ _
  · refine streamInv_blockLoop fun hclean => ?_
    have hadv := (getBits_advances (by decide) hcount).trans (alignReader_advances halign)
    have hready : State.readerReady { s with rd := r2 } := readerReady_of_advances (ready hclean) rfl rfl hadv
    obtain ⟨hn, hbase, hlen, hc⟩ := id hready
    obtain ⟨hbase3, hlen3, _⟩ := storedBytes_keeps hbytes
    refine ⟨hn, hbase3.trans hbase, hlen3.trans hlen, storedBytes_coherent hc (fun a ha b _ hb heq => ?_) hbytes⟩
    have hsrc := not_inRange_dst_of_src hr.1 (payload_inRange_src (s := { s with rd := r2 }) hready hr.1 ha)
    have hle := storedCount_le e s.dec.m.toNat s.dec.out.toNat
    have hdst := outputRoom_inRange (i := b) hr (by omega)
    rw [← heq, hsrc] at hdst
    cases hdst

theorem streamInv_compressedBlockWork (h : s.compressedBlockWork = .next t) : t.StreamInv := by
  rcases compressedBlockWork_next h with ⟨c, info, rfl⟩ | ⟨lens, r1, tree, f, r2, hlens, _, hcount, rfl⟩
  · exact streamInv_raiseError _ _ _
  · have hadv := (readLengths3_advances hlens).trans (getBits_advances (by decide) hcount)
    exact streamInv_of_ready fun hclean => readerReady_of_advances (ready hclean) rfl rfl hadv

theorem streamInv_codeLength {q : RleSeq} {c j sym x : Nat} (hp : s.phase = .rle q c j)
    (h : s.codeLength sym x = .next t) : t.StreamInv := by
  rcases codeLength_next hp h with ⟨u, e, info, rfl, _⟩ |
    ⟨lens, k, _, ⟨_, rfl⟩ | ⟨_, _, tree, f, r, _, hcount, rfl⟩ | ⟨_, _, tree, _, rfl⟩⟩
  · exact streamInv_raiseError _ _ _
  · exact streamInv_of_ready ready
  · exact streamInv_of_ready fun hclean =>
      readerReady_of_advances (ready hclean) rfl rfl (getBits_advances (by decide) hcount)
  · exact streamInv_symbolLoop ready

theorem streamInv_literal (hr : s.outputRoom) (b : Byte) :
    ({ s with dec := { s.dec with bsym := s.dec.bsym + 1 } }.literal b).StreamInv := by
  have hout := hr.2.2
  have hm := outputRoom_sameOutside hr (write_sameExcept s.mem (s.lat.dst + s.dec.out) b) (by omega)
  exact streamInv_symbolLoop fun hclean => readerReady_of_sameOutside (ready hclean) hr.1 rfl rfl hm

theorem streamInv_distanceWork (hr : s.outputRoom) (len c x : Nat) : (s.distanceWork len c x).StreamInv := by
  rcases distanceWork_cases s len c x with ⟨info, u, h, _, _⟩ | ⟨d, cache, _, _, hlen, h⟩ <;> rw [h]
  · exact streamInv_raiseError _ _ _
  · have hm := outputRoom_sameOutside hr (copyForward_sameExcept (s.lat.dst + s.dec.out)
      (s.lat.dst + (s.dec.out - BitVec.ofNat 32 d)) len s.mem) hlen
    exact streamInv_symbolLoop fun hclean => readerReady_of_sameOutside (ready hclean) hr.1 rfl rfl hm

end

/-! Instructions and steps. -/

theorem exec_streamInv {i : Instr} {s t : State} (hs : s.StreamInv) (hd : s.DstInv) (h : exec i s = .next t) :
    t.StreamInv := by
  have ready := (streamInv_iff s).mp hs
  rcases exec_next_cases h with ⟨_, hw⟩ | ⟨hp, ⟨w, rfl⟩ | ⟨w, rfl⟩⟩ | ⟨hp, hw⟩ | ⟨⟨q, c, j, hp⟩, sym, x, hw⟩ |
    ⟨hp, ht⟩ | ⟨len, hp, c, x, rfl⟩
  · exact streamInv_commandWork hw
  · exact streamInv_storedHeader s w
  · exact streamInv_huffmanHeader hd hp w
  · have hreads : ReadsStream s := .inl hp
    rcases hw with hw | hw
    · exact streamInv_storedBlockWork (ready hreads) (outputRoom_of_phase hd hreads) hw
    · exact streamInv_compressedBlockWork (ready hreads) hw
  · exact streamInv_codeLength (ready (.inr (.inl ⟨q, c, j, hp⟩))) hp hw
  · have hreads : ReadsStream s := .inr (.inr (.inl hp))
    rcases ht with ⟨b, rfl⟩ | ⟨n, rfl⟩
    · exact streamInv_literal (ready hreads) (outputRoom_of_phase hd hreads) b
    · exact ready hreads
  · have hreads : ReadsStream s := .inr (.inr (.inr ⟨len, hp⟩))
    exact streamInv_distanceWork (ready hreads) (outputRoom_of_phase hd hreads) len c x

/-- A token runs in the state after its bits are read. -/
theorem exec_streamInv_of_fetch {i : Instr} {s t : State} {r : Reader} (hs : s.StreamInv) (hd : s.DstInv)
    (hr : Advances s.mem s.rd r) (h : exec i { s with rd := r } = .next t) : t.StreamInv := by
  have hs' : State.StreamInv { s with rd := r } :=
    streamInv_of_frame hs rfl id fun _ _ hready => readerReady_of_advances hready rfl rfl hr
  exact exec_streamInv hs' (dstInv_of_frame hd rfl rfl rfl) h

theorem engineStep_streamInv {s t : State} (hs : s.StreamInv) (hd : s.DstInv) (h : engineStep s = .next t) :
    t.StreamInv := by
  rcases engineStep_cases h with ⟨_, rfl⟩ | ⟨i, _, _, he⟩ | ⟨i, _, _, he⟩ | ⟨i, r, _, hr, he⟩ |
    ⟨q, c, j, i, r, _, hr, he⟩ | ⟨i, r, _, hr, he⟩ | ⟨len, i, r, _, hr, he⟩ | ⟨e, info, _, _, _, rfl⟩
  · exact hs
  · exact exec_streamInv hs hd he
  · exact exec_streamInv hs hd he
  · exact exec_streamInv_of_fetch hs hd (readBlockType_advances hr) he
  · exact exec_streamInv_of_fetch hs hd (readToken_advances hr) he
  · exact exec_streamInv_of_fetch hs hd (readToken_advances hr) he
  · exact exec_streamInv_of_fetch hs hd (readToken_advances hr) he
  · exact streamInv_raiseError _ _ _

/-- One access of an instruction writes the destination at most (20_memory.md R206). -/
theorem streamInv_access {s : State} {a : Access} {made : Nat} (hs : s.StreamInv) (hd : s.DstInv) (h : a ∈ accesses s) :
    State.StreamInv { s with mem := a.onMemory s.mem, made := made } :=
  streamInv_of_frame hs rfl id fun hreads _ hready =>
    readerReady_of_sameOutside hready (outputRoom_of_phase hd hreads).1 rfl rfl (access_outside hd h).1

theorem streamInv_writeCmd {s : State} (hs : s.StreamInv) (v : Word) : (s.writeCmd v).StreamInv := by
  unfold State.writeCmd
  split
  · exact streamInv_of_frame hs rfl id fun _ _ => id
  · trivial

/-- A host write that leaves the command unspoiled does not go to its source (20_memory.md R213). -/
theorem streamInv_memWrite {s : State} (hi : s.Inv) (hd : s.DstInv) (hs : s.StreamInv) (a : Word) (v : Byte) :
    State.StreamInv { s with
      mem := s.mem.write a v, tainted := s.tainted || s.inBusySrc a || s.inBusyDst a } := by
  refine streamInv_of_frame hs rfl (fun hclean => ?_) fun hreads hclean hready => ?_
  · simp only [Bool.or_eq_false_iff] at hclean
    exact hclean.1.1
  · simp only [Bool.or_eq_false_iff] at hclean
    obtain ⟨⟨_, hsrc⟩, _⟩ := hclean
    obtain ⟨hop, hbad, _⟩ := room_of_phase hd hreads
    obtain ⟨_, _, _, hidle, _⟩ := hi
    have hbusy : s.regs.busy = true := by
      rw [← Bool.not_eq_false, ← hidle]
      intro hp
      simp [ReadsStream, hp] at hreads
    have hout : inRange a s.lat.src s.lat.n = false := by simpa [State.inBusySrc, hbusy, hop, readsSrc] using hsrc
    refine readerReady_of_samePayload hready rfl rfl fun j hj => read_write_other _ _ fun heq => ?_
    have hin := payload_inRange_src hready hbad hj
    rw [heq, hout] at hin
    cases hin

/-- Settles O5, by the cases of a step: an instruction moves the reader along a payload that nothing writes, and of the
other steps only an access and a host write touch memory. -/
theorem stepKeepsStreamInv : Obligations.StepKeepsStreamInv := by
  unfold Obligations.StepKeepsStreamInv
  intro s t hi hd hs h
  have hs' : s.entryTaken.StreamInv := hs
  have hd' : s.entryTaken.DstInv := hd
  cases step_next_cases h with
  | engine _ h => exact engineStep_streamInv (s := s.taken) hs hd h
  | access _ ha => exact streamInv_access hs' hd' ha
  | reset _ => exact streamInv_of_idle rfl
  | regRead _ => exact streamInv_of_frame hs rfl id fun _ _ => id
  | cmdWrite _ => exact streamInv_writeCmd hs' _
  | regWrite _ _ => exact streamInv_of_frame hs rfl id fun _ _ => id
  | memRead _ _ _ => exact streamInv_of_frame hs rfl id fun _ _ => id
  | memWrite _ => exact streamInv_memWrite (s := s.entryTaken) hi hd hs _ _

end Sys2Proof.Proofs

/-! PROOFS. Streams that end inside a token (46_bit_reader.md R652, 48_symbol_decoder_and_copy.md R752, 60_exceptions.md R901): the
walk along a code, or the read of its extra bits, comes to the end of the whole payload words and raises there. -/

namespace Sys2Proof.Proofs

open Sys2Proof Sys2Proof.Machine Sys2Proof.Laws

section
variable {mem : Memory} {r : Reader}

/-- With no bit left a walk raises at its first node. -/
theorem getCodeFrom_at_end {tree : List Slot} {fuel node : Nat} (hc : r.Coherent mem) (hend : r.bits < r.position + 1) :
    getCodeFrom mem tree (fuel + 1) node r = .error (.error .truncatedInput (offsetAt r.bits)) := by
  rw [getCodeFrom, getBits_truncated hc (by decide) hend]

theorem getCode_at_end {tree : List Slot} (hc : r.Coherent mem) (hend : r.bits < r.position + 1) :
    getCode mem tree r = .error (.error .truncatedInput (offsetAt r.bits)) :=
  getCodeFrom_at_end hc hend

/-- The walk along a code of which the stream holds only the first bits. -/
theorem getCodeFrom_truncated {tree : List Slot} {sym code i fuel node : Nat} (hfuel : i ≤ fuel)
    (hleads : Leads tree sym code i node) (hc : r.Coherent mem) (hshort : r.bits < r.position + i)
    (hstream : ∀ j < i, r.position + j < r.bits → streamBit mem r.base (r.position + j) = code.testBit (i - 1 - j)) :
    getCodeFrom mem tree fuel node r = .error (.error .truncatedInput (offsetAt r.bits)) := by
  induction i generalizing fuel node r with
  | zero => exact hleads.elim
  | succ i ih =>
    obtain ⟨fuel, rfl⟩ := Nat.exists_eq_add_of_le' (Nat.one_le_of_lt hfuel)
    rcases Nat.lt_or_ge r.bits (r.position + 1) with hend | hroom
    · exact getCodeFrom_at_end hc hend
    · obtain ⟨r1, hget, hpos, hc1, hbase, hlen⟩ := exists_bitRead hc hroom
      have hbit : (streamBit mem r.base r.position).toNat = codeBit code i := by
        rw [← toNat_testBit]
        exact congrArg Bool.toNat (hstream 0 (Nat.succ_pos i) hroom)
      cases i with
      | zero => exact absurd hshort (Nat.not_lt.mpr hroom)
      | succ i =>
        obtain ⟨j, hj, hrest⟩ := hleads
        have hbits : r1.bits = r.bits := by rw [Reader.bits, Reader.bits, hlen]
        rw [getCodeFrom, hget, hbit]
        dsimp only
        rw [hj, ← hbits]
        refine ih (by omega) hrest hc1 (by omega) fun k hk hlt => ?_
        rw [hpos, Nat.add_assoc, Nat.add_comm 1 k] at hlt ⊢
        rw [hbase, hstream (k + 1) (Nat.succ_lt_succ hk) (hbits ▸ hlt)]
        congr 1; omega

/-! Tokens. -/

theorem readBlockType_at_end (hc : r.Coherent mem) (hend : r.bits < r.position + 1) :
    readBlockType mem r = .error (.error .truncatedInput (offsetAt r.bits)) := by
  rw [readBlockType, getBits_truncated hc (by decide) hend]

variable {f : Format} {tree : List Slot} {p : Nat → Bool}

theorem readToken_of_code_error {e : Stop} (h : getCode mem tree r = .error e) : readToken mem f tree p r = .error e := by
  simp only [readToken, h]

theorem readToken_of_extra_error {sym : Nat} {r1 : Reader} {e : Stop} (hcode : getCode mem tree r = .ok (sym, r1))
    (hextra : getBits mem (if p sym then extraBits f sym else 0) r1 = .error e) : readToken mem f tree p r = .error e := by
  simp only [readToken, hcode, hextra]

/-- A token whose code and extra bits do not all fit, in its code or in its extra bits. -/
theorem readToken_truncated {lens : List Nat} {n lmax sym extra : Nat}
    (halphabet : (n, lmax) ∈ [(320, 14), (64, 14), (20, 7)]) (hcomplete : CompleteCode lens n lmax)
    (htree : buildTree lens n lmax = some tree) (hsym : sym < n) (hused : 0 < lens.getD sym 0)
    (hextra : (if p sym then extraBits f sym else 0) = extra) (hc : r.Coherent mem)
    (hstream : ∀ j, j < lens.getD sym 0 → r.position + j < r.bits →
      streamBit mem r.base (r.position + j) = ((reversedCodes lens lmax).getD sym 0).testBit j)
    (hshort : r.bits < r.position + lens.getD sym 0 + extra) :
    readToken mem f tree p r = .error (.error .truncatedInput (offsetAt r.bits)) := by
  obtain ⟨-, hn, -, hmax, hmax14⟩ := alphabet_bounds halphabet
  have hne := hused.ne'
  have hfuel : lens.getD sym 0 ≤ Config.litMaxLen := (length_le_max hcomplete hne).trans hmax14
  obtain ⟨tree', htree', hleads⟩ := buildTree_leads hcomplete (by omega) hmax hne
  obtain rfl : tree = tree' := Option.some.inj (htree.symm.trans htree')
  have hcode : ∀ j < lens.getD sym 0, r.position + j < r.bits →
      streamBit mem r.base (r.position + j) = (canonCode lens lmax sym).testBit (lens.getD sym 0 - 1 - j) := by
    intro j hj hlt
    rw [hstream j hj hlt, reversedCodes_getD hne, testBit_revBits _ hj]
  rcases Nat.lt_or_ge r.bits (r.position + lens.getD sym 0) with hmid | hroom
  · exact readToken_of_code_error (getCodeFrom_truncated hfuel hleads hc hmid hcode)
  · obtain ⟨r1, hwalk, hpos, hc1, _, hlen⟩ := getCodeFrom_of_leads (by omega) hfuel hleads hc hroom
      fun j hj => hcode j hj (by omega)
    have hbits : r1.bits = r.bits := by rw [Reader.bits, Reader.bits, hlen]
    have hwidth : extra ≤ 32 := by
      have := extraBits_le f sym
      rw [← hextra]; split <;> omega
    refine readToken_of_extra_error hwalk ?_
    rw [hextra, ← hbits]
    exact getBits_truncated hc1 hwidth (by omega)

end

/-! Turns of the engine. -/

/-- A fetch that runs out of the stream ends the command there (R904). -/
theorem step_of_truncated_fetch {s : State} {token : Except Stop (Instr × Reader)} {info : Word} (hturn : s.engineTurn)
    (hclean : s.tainted = false) (hfetch : fetch s.taken = fetched s.taken token)
    (htoken : token = .error (.error .truncatedInput info)) :
    ∃ t, step s = .next t ∧ s.taken.ErredDecode t 3 info := by
  refine ⟨s.taken.raiseError .truncatedInput info, ?_, raiseError_erred (s := s.taken) hclean _ _⟩
  rw [step_of_engineTurn hturn, engineStep, hfetch, htoken]
  rfl

/-- Settles O44: each phase's fetch raises at the first bit where none is left, and inside its token where the token does not
fit. -/
theorem missingPayloadWordTruncates : Obligations.MissingPayloadWordTruncates := by
  unfold Obligations.MissingPayloadWordTruncates
  refine ⟨fun s hturn hclean hready hend hp => ?_,
    fun s lens n lmax sym extra tree hturn hclean hready _ hp hcomplete htree hsym hused hstream hshort => ?_⟩
  · obtain ⟨_, _, _, hc⟩ := hready
    have hnone : s.rd.bits < s.rd.position + 1 := by omega
    rcases hp with hp | ⟨q, count, j, hp⟩ | hp | ⟨len, hp⟩
    · exact step_of_truncated_fetch hturn hclean (fetch_of_block (s := s.taken) hp) (readBlockType_at_end hc hnone)
    · exact step_of_truncated_fetch hturn hclean (fetch_of_rle (s := s.taken) hp)
        (readToken_of_code_error (getCode_at_end hc hnone))
    · exact step_of_truncated_fetch hturn hclean (fetch_of_symbol (s := s.taken) hp)
        (readToken_of_code_error (getCode_at_end hc hnone))
    · exact step_of_truncated_fetch hturn hclean (fetch_of_dist (s := s.taken) hp)
        (readToken_of_code_error (getCode_at_end hc hnone))
  · obtain ⟨_, _, _, hc⟩ := hready
    rcases hp with ⟨q, count, j, hp, rfl, rfl, rfl, rfl⟩ | ⟨hp, rfl, rfl, rfl, rfl⟩ | ⟨len, hp, rfl, rfl, rfl, rfl⟩
    · exact step_of_truncated_fetch hturn hclean (fetch_of_rle (s := s.taken) hp)
        (readToken_truncated (by decide) hcomplete htree hsym hused (rleExtraBits_eq sym j) hc hstream hshort)
    · exact step_of_truncated_fetch hturn hclean (fetch_of_symbol (s := s.taken) hp)
        (readToken_truncated (by decide) hcomplete htree hsym hused (if_pos rfl) hc hstream hshort)
    · exact step_of_truncated_fetch hturn hclean (fetch_of_dist (s := s.taken) hp)
        (readToken_truncated (by decide) hcomplete htree hsym hused (if_pos rfl) hc hstream hshort)

end Sys2Proof.Proofs

/-! PROOFS. The code-length tokens (47_block_decoder.md R706): a token that is accepted writes its run of equal lengths at the
index of its sequence, and one that is rejected ends the command. -/

namespace Sys2Proof.Proofs

open Sys2Proof Sys2Proof.Machine Sys2Proof.Laws

/-! Runs of equal lengths. -/

theorem writeLens_replicate_getD {r i : Nat} {v : BitVec 4} {lens : List (BitVec 4)} (hroom : i + r ≤ lens.length) (a : Nat) :
    (writeLens (List.replicate r v.toNat) i lens).getD a 0 = if i ≤ a ∧ a < i + r then v else lens.getD a 0 := by
  have hroom' : i + (List.replicate r v.toNat).length ≤ lens.length := by rwa [List.length_replicate]
  split
  next hin =>
    obtain ⟨k, rfl⟩ := Nat.exists_eq_add_of_le hin.1
    have hk : k < r := Nat.lt_of_add_lt_add_left hin.2
    rw [writeLens_getD_inside hroom' (by rwa [List.length_replicate]), List.getD_replicate _ hk, BitVec.ofNat_toNat,
      BitVec.setWidth_eq]
  next hout => exact writeLens_getD_outside hroom' (by rw [List.length_replicate]; omega)

/-- What is written from an index on follows the lengths before the index. -/
theorem take_writeLens {vs : List Nat} {i : Nat} {lens : List (BitVec 4)} (hroom : i + vs.length ≤ lens.length) :
    (writeLens vs i lens).take (i + vs.length) = lens.take i ++ vs.map (BitVec.ofNat 4) := by
  induction vs generalizing i lens with
  | nil => simp [writeLens]
  | cons v vs ih =>
    rw [List.length_cons] at hroom
    have hset : (lens.set i (BitVec.ofNat 4 v)).take (i + 1) = lens.take i ++ [BitVec.ofNat 4 v] := by
      rw [List.take_set, List.take_add_one, List.set_append_right _ _ (by simp)]
      simp [show i < lens.length by omega, Nat.min_eq_left (show i ≤ lens.length by omega)]
    rw [writeLens, List.length_cons, Nat.add_comm vs.length 1, ← Nat.add_assoc, ih (by rw [List.length_set]; omega), hset]
    simp

/-! One token against a length array. -/

/-- How many lengths a code-length token stands for (R706). -/
def tokenRun (t x : Nat) : Nat := if t ≤ 14 then 1 else repeatCount t x

/-- The length that a code-length token at index `j` stands for: its own, or the one before it (R706). -/
def tokenLength (t j : Nat) (lens : List (BitVec 4)) : BitVec 4 :=
  if t ≤ 14 then BitVec.ofNat 4 t else lens.getD (j - 1) 0

/-- The run bases of R706 as the statements write them. -/
theorem getD_runBase (t : Nat) : [2, 3, 5, 9, 17].getD (t - 15) 0 = runBase t :=
  List.getD_map (f := Prod.fst) (l := runTable) (d := (0, 0)) (n := t - 15)

section
variable {t x count j : Nat} {lens : List (BitVec 4)}

theorem applyCodeLength_accepted (hprev : t ≤ 14 ∨ 0 < j) (hcount : j + tokenRun t x ≤ count) (hlen : count ≤ lens.length) :
    applyCodeLength t x count j lens =
      some (writeLens (List.replicate (tokenRun t x) (tokenLength t j lens).toNat) j lens, j + tokenRun t x) := by
  unfold applyCodeLength tokenRun tokenLength at *
  by_cases ht : t ≤ 14
  · simp [ht, writeLens, Nat.mod_eq_of_lt (show t < 16 by omega)]
  · rw [if_neg ht] at hcount
    have hj : 0 < j := hprev.resolve_left ht
    simp only [if_neg ht]
    rw [if_neg hj.ne', if_neg (by omega),
      repeatLens_eq_writeLens hj (by omega) (by rw [BitVec.ofNat_toNat, BitVec.setWidth_eq])]

theorem applyCodeLength_rejected (ht : 15 ≤ t) (h : j = 0 ∨ count < j + repeatCount t x) :
    applyCodeLength t x count j lens = none := by
  rw [applyCodeLength, if_neg (by omega)]
  split
  · rfl
  next hj => rw [if_pos (h.resolve_left hj)]

/-- A token that is accepted has a length to write, and room for its run. -/
theorem fits_of_applyCodeLength {a : List (BitVec 4) × Nat} (hj : j < count) (h : applyCodeLength t x count j lens = some a) :
    (t ≤ 14 ∨ 0 < j) ∧ j + tokenRun t x ≤ count := by
  unfold applyCodeLength at h
  unfold tokenRun
  split_ifs at h ⊢ <;> omega

end

/-! The work of a token. -/

section
variable {s : State} {q : RleSeq} {t x count j k : Nat} {lens : List (BitVec 4)}

theorem codeLength_rejected (hp : s.phase = .rle q count j) (h : applyCodeLength t x count j (s.dec.lensFor q) = none) :
    s.codeLength t x = .next (s.raiseError .corruptInput s.rd.offset) := by
  simp only [State.codeLength, hp, h]

theorem codeLength_accepted (hp : s.phase = .rle q count j)
    (h : applyCodeLength t x count j (s.dec.lensFor q) = some (lens, k)) :
    s.codeLength t x = State.nextCodeLength { s with dec := s.dec.setLens q lens } q count k := by
  simp only [State.codeLength, hp, h]

theorem nextCodeLength_inside (h : k < count) : s.nextCodeLength q count k = .next { s with phase := .rle q count k } :=
  if_pos h

theorem nextCodeLength_literal (h : count ≤ k) : s.nextCodeLength .literal count k = s.endLiteralLens count :=
  if_neg (Nat.not_lt.mpr h)

theorem nextCodeLength_distance (h : count ≤ k) : s.nextCodeLength .distance count k = s.endDistanceLens count :=
  if_neg (Nat.not_lt.mpr h)

/-- A token that is accepted, before the end of its sequence or at it. -/
theorem codeLength_writes (hp : s.phase = .rle q count j) (hprev : t ≤ 14 ∨ 0 < j) (hcount : j + tokenRun t x ≤ count)
    (hlen : count ≤ (s.dec.lensFor q).length) :
    s.codeLength t x = State.nextCodeLength
      { s with dec := s.dec.setLens q (writeLens (List.replicate (tokenRun t x) (tokenLength t j (s.dec.lensFor q)).toNat) j
        (s.dec.lensFor q)) } q count (j + tokenRun t x) :=
  codeLength_accepted hp (applyCodeLength_accepted hprev hcount hlen)

end

/-- Settles O32: the token writes its run, and the index after it is still inside the sequence. -/
theorem codeLengthTokenExtendsSequence : Obligations.CodeLengthTokenExtendsSequence := by
  unfold Obligations.CodeLengthTokenExtendsSequence
  intro i s q count j hfmt hp hlen
  dsimp only
  rw [exec_of_clsym hfmt, getD_runBase]
  refine ⟨fun ht hj => ?_, fun ht hj hr => ?_⟩
  · rw [codeLength_accepted hp (if_pos ht), nextCodeLength_inside hj]
  · have hrun : tokenRun (encode i).sym (encode i).x = runBase (encode i).sym + (encode i).x := if_neg (by omega)
    have hprev : tokenLength (encode i).sym j (s.dec.lensFor q) = (s.dec.lensFor q).getD (j - 1) 0 := if_neg (by omega)
    have hexec := codeLength_writes (t := (encode i).sym) (x := (encode i).x) hp (.inr hj) (by omega) hlen
    rw [hrun, hprev, nextCodeLength_inside hr] at hexec
    exact ⟨_, hexec, writeLens_length _ _ _, writeLens_replicate_getD (by omega)⟩

/-- Settles O33: both uses of a repeat that R706 rejects are the same error. -/
theorem codeLengthRepeatRejected : Obligations.CodeLengthRepeatRejected := by
  unfold Obligations.CodeLengthRepeatRejected
  intro i s q count j hfmt ht hp hclean h
  rw [getD_runBase] at h
  refine ⟨s.raiseError .corruptInput s.rd.offset, ?_, raiseError_erred hclean _ _⟩
  rw [exec_of_clsym hfmt, codeLength_rejected hp (applyCodeLength_rejected ht h)]

end Sys2Proof.Proofs

/-! PROOFS. The decoder's trees stay trees of complete codes (47_block_decoder.md R704 to R709): a tree is built only where the
lengths' Kraft sum is one, and until then the code-length tokens write lengths of at most 14. -/

namespace Sys2Proof.Proofs

open Sys2Proof Sys2Proof.Machine Sys2Proof.Laws

/-! Trees of complete codes. -/

/-- A tree that was built from a complete code of `n` symbols. -/
def BuiltFrom (n lmax : Nat) (tree : List Slot) : Prop := ∃ lens, CompleteCode lens n lmax ∧ buildTree lens n lmax = some tree

/-- `BuildTree` answers only for a complete code (R709). -/
theorem builtFrom_of_buildTree {lens : List Nat} {n lmax : Nat} {tree : List Slot} (hlen : lens.length = n)
    (hle : ∀ l ∈ lens, l ≤ lmax) (h : buildTree lens n lmax = some tree) : BuiltFrom n lmax tree := by
  refine ⟨lens, ⟨hlen, hle, ?_⟩, h⟩
  unfold buildTree at h
  split at h
  next hkraft => exact (kraftSum_eq hle).symm.trans hkraft
  · cases h

/-! The lengths of a sequence. -/

/-- The first `k` entries of a length array are lengths of the literal or distance alphabet (30_encoding.md R315). -/
def LensWithin (k : Nat) (lens : List (BitVec 4)) : Prop := ∀ a < k, (lens.getD a 0).toNat ≤ 14

theorem tokenLength_le {t j : Nat} {lens : List (BitVec 4)} (hprev : t ≤ 14 ∨ 0 < j) (h : LensWithin j lens) :
    (tokenLength t j lens).toNat ≤ 14 := by
  unfold tokenLength
  split
  next ht => exact (BitVec.toNat_ofNat t 4).trans_le ((Nat.mod_le _ _).trans ht)
  next ht => exact h (j - 1) (Nat.sub_lt (hprev.resolve_left ht) Nat.one_pos)

/-- What an accepted token keeps of its length array. -/
theorem applyCodeLength_keeps {t x count j k : Nat} {lens lens' : List (BitVec 4)} (hj : j < count)
    (hlen : count ≤ lens.length) (hle : LensWithin j lens) (h : applyCodeLength t x count j lens = some (lens', k)) :
    lens'.length = lens.length ∧ k ≤ count ∧ LensWithin k lens' := by
  obtain ⟨hprev, hroom⟩ := fits_of_applyCodeLength hj h
  obtain ⟨rfl, rfl⟩ := Prod.mk.inj (Option.some.inj ((applyCodeLength_accepted hprev hroom hlen).symm.trans h))
  refine ⟨writeLens_length _ _ _, hroom, fun a ha => ?_⟩
  rw [writeLens_replicate_getD (hroom.trans hlen)]
  split
  · exact tokenLength_le hprev hle
  next hout => exact hle a (by omega)

/-- The lengths that a tree is built from at the end of a sequence (R707, R708). -/
theorem clearFrom_lens {count n : Nat} {lens : List (BitVec 4)} (hlen : lens.length = n) (hcount : count ≤ n)
    (hle : LensWithin count lens) :
    (clearFrom count n lens).length = n ∧ ∀ l ∈ lensOf (clearFrom count n lens), l ≤ 14 := by
  refine ⟨by simp [clearFrom]; omega, fun l hl => ?_⟩
  obtain ⟨v, hv, rfl⟩ := List.mem_map.mp hl
  rcases List.mem_append.mp hv with hv | hv
  · obtain ⟨a, ha, rfl⟩ := List.mem_iff_getElem.mp hv
    rw [List.length_take] at ha
    have hget := hle a (by omega)
    rwa [List.getD_eq_getElem _ _ (by omega), ← List.getElem_take] at hget
  · rw [(List.mem_replicate.mp hv).2]; exact Nat.zero_le 14

theorem builtFrom_of_clearFrom {count n : Nat} {lens : List (BitVec 4)} {tree : List Slot} (hlen : lens.length = n)
    (hcount : count ≤ n) (hle : LensWithin count lens) (h : buildTree (lensOf (clearFrom count n lens)) n 14 = some tree) :
    (clearFrom count n lens).length = n ∧ BuiltFrom n 14 tree := by
  obtain ⟨hlen', hle'⟩ := clearFrom_lens hlen hcount hle
  exact ⟨hlen', builtFrom_of_buildTree (by rw [lensOf, List.length_map, hlen']) hle' h⟩

/-! The invariant in parts. -/

/-- What the invariant says in every decoder state: the sizes of the length arrays, and clean pending bits. -/
structure DecoderSound (s : State) : Prop where
  lit : s.dec.lensLit.length = 320
  dist : s.dec.lensDist.length = 64
  clean : s.rd.Clean

theorem decodeInv_iff (s : State) : s.DecodeInv ↔ s.TreesBuilt ∧ DecoderSound s :=
  ⟨fun ⟨htrees, ⟨hlit, hdist⟩, hclean⟩ => ⟨htrees, hlit, hdist, hclean⟩,
    fun ⟨htrees, hlit, hdist, hclean⟩ => ⟨htrees, ⟨hlit, hdist⟩, hclean⟩⟩

/-- The invariant speaks of the decoder's registers, the reader and the phase only. -/
theorem decodeInv_of_frame {s t : State} (h : s.DecodeInv) (hd : t.dec = s.dec) (hr : t.rd = s.rd) (hp : t.phase = s.phase) :
    t.DecodeInv := by
  unfold State.DecodeInv State.TreesBuilt
  rw [hd, hr, hp]
  exact h

/-- Outside a block no tree is read. -/
theorem treesBuilt_of_phase {s : State} (hp : s.phase = .idle ∨ s.phase = .start ∨ s.phase = .header ∨ s.phase = .block) :
    s.TreesBuilt := by
  unfold State.TreesBuilt
  rcases hp with hp | hp | hp | hp <;> rw [hp] <;> trivial

theorem decodeInv_raiseError {s : State} (h : DecoderSound s) (e : ErrCode) (info : Word) : (s.raiseError e info).DecodeInv :=
  (decodeInv_iff _).mpr ⟨treesBuilt_of_phase (.inl (raiseError_phase s e info)), by simpa using h.lit, by simpa using h.dist,
    by simpa using h.clean⟩

theorem decodeInv_complete {s : State} (h : DecoderSound s) (len : Word) (form fallback : Bool) :
    (s.complete len form fallback).DecodeInv :=
  (decodeInv_iff _).mpr ⟨treesBuilt_of_phase (.inl (complete_phase s len form fallback)), by simpa using h.lit,
    by simpa using h.dist, by simpa using h.clean⟩

theorem decodeInv_blockLoop {s : State} (h : DecoderSound s) : s.blockLoop.DecodeInv := by
  rcases blockLoop_cases s with ⟨_, e⟩ | ⟨_, e⟩ <;> rw [e]
  · exact (decodeInv_iff _).mpr ⟨trivial, h.lit, h.dist, h.clean⟩
  · exact decodeInv_complete h _ _ _

/-- The trees that the data symbols of a block are read with (R710). -/
def DataTrees (d : Decoder) : Prop := BuiltFrom 320 14 d.litTree ∧ BuiltFrom 64 14 d.distTree

theorem decodeInv_symbolLoop {s : State} (h : DecoderSound s) (htrees : DataTrees s.dec) : s.symbolLoop.DecodeInv := by
  rcases symbolLoop_cases s with ⟨_, _, e⟩ | ⟨_, e⟩ <;> rw [e]
  · exact (decodeInv_iff _).mpr ⟨htrees, h.lit, h.dist, h.clean⟩
  · exact decodeInv_blockLoop h

theorem dataTrees_of_phase {s : State} (h : s.TreesBuilt) (hp : s.phase = .symbol ∨ ∃ len, s.phase = .dist len) :
    DataTrees s.dec := by
  unfold State.TreesBuilt at h
  rcases hp with hp | ⟨len, hp⟩ <;> (rw [hp] at h; exact h)

/-! Commands and headers. -/

theorem decodeInv_commandWork {i : Instr} {s t : State} (hs : DecoderSound s) (h : CommandWork i s t) : t.DecodeInv := by
  rcases h with ⟨_, rfl⟩ | ⟨l, _, rfl⟩ | ⟨_, rfl⟩ | ⟨_, rfl⟩ | ⟨l, _, rfl⟩ | ⟨_, rfl⟩
  · exact decodeInv_complete hs _ _ _
  · rcases compressWork_cases s l with ⟨e, _, h⟩ | ⟨_, _, h⟩ | ⟨w, _, _, _, h⟩ | ⟨w, _, _, _, h⟩ <;> rw [h]
    · exact decodeInv_raiseError hs _ _
    all_goals
      refine decodeInv_complete ?_ _ _ _
      exact ⟨hs.lit, hs.dist, hs.clean⟩
  · rcases decompressWork_cases s with ⟨e, _, h⟩ | ⟨_, h⟩ <;> rw [h]
    · exact decodeInv_raiseError hs _ _
    · exact (decodeInv_iff _).mpr ⟨trivial, hs.lit, hs.dist, hs.clean⟩
  · rcases getLengthWork_cases s with ⟨e, _, h⟩ | ⟨_, h⟩ <;> rw [h]
    · exact decodeInv_raiseError hs _ _
    · exact decodeInv_complete hs _ _ _
  · rcases measureWork_cases s l with ⟨e, _, h⟩ | ⟨_, _, h⟩ | ⟨w, _, _, _, h⟩ | ⟨w, _, _, _, h⟩ <;> rw [h]
    · exact decodeInv_raiseError hs _ _
    all_goals
      refine decodeInv_complete ?_ _ _ _
      exact ⟨hs.lit, hs.dist, hs.clean⟩
  · exact decodeInv_raiseError hs _ _

theorem decodeInv_storedHeader {s : State} (hs : DecoderSound s) (w : Word) : (s.storedHeader w).DecodeInv := by
  rcases storedHeader_cases s w with ⟨_, h⟩ | ⟨_, _, h⟩ | ⟨_, _, h⟩ <;> rw [h]
  · exact decodeInv_raiseError hs _ _
  · refine decodeInv_raiseError ?_ _ _
    exact ⟨hs.lit, hs.dist, hs.clean⟩
  · refine decodeInv_complete ?_ _ _ _
    exact ⟨hs.lit, hs.dist, hs.clean⟩

theorem decodeInv_huffmanHeader {s : State} (hs : DecoderSound s) (w : Word) : (s.huffmanHeader w).DecodeInv := by
  rcases huffmanHeader_cases s w with ⟨_, h⟩ | ⟨_, h⟩ <;> rw [h]
  · exact decodeInv_raiseError hs _ _
  · exact decodeInv_blockLoop ⟨hs.lit, hs.dist, Nat.one_pos⟩

/-! Blocks. -/

theorem decodeInv_storedBlockWork {s t : State} (hs : DecoderSound s) (h : s.storedBlockWork = .next t) : t.DecodeInv := by
  rcases storedBlockWork_next h with ⟨c, info, rfl⟩ | ⟨e, r1, r2, mem, r3, hcount, halign, hbytes, rfl⟩
  · exact decodeInv_raiseError hs _ _
  · obtain ⟨v, hdiscard⟩ := alignReader_ok halign
    have hclean1 := (getBits_clean (by decide) hs.clean hcount).1
    have hclean2 := (getBits_clean (by omega) hclean1 hdiscard).1
    exact decodeInv_blockLoop ⟨hs.lit, hs.dist, (storedBytes_keeps hbytes).2.2 hclean2⟩

theorem decodeInv_compressedBlockWork {s t : State} (hs : DecoderSound s) (h : s.compressedBlockWork = .next t) :
    t.DecodeInv := by
  rcases compressedBlockWork_next h with ⟨c, info, rfl⟩ | ⟨lens, r1, tree, f, r2, hlens, htree, hcount, rfl⟩
  · exact decodeInv_raiseError hs _ _
  · obtain ⟨_, _, hlen, hkeeps⟩ := readLengths3_keeps hlens
    obtain ⟨hclean1, hle⟩ := hkeeps hs.clean
    obtain ⟨hclean2, hf⟩ := getBits_clean (by decide) hclean1 hcount
    exact (decodeInv_iff _).mpr ⟨⟨builtFrom_of_buildTree hlen hle htree, by omega, by omega, hs.lit,
      fun _ ha => absurd ha (Nat.not_lt_zero _)⟩, hs.lit, hs.dist, hclean2⟩

/-! Code-length tokens. -/

/-- The trees and lengths of a sequence at index `j`. -/
theorem treesBuilt_literal {s : State} {count j : Nat} (hp : s.phase = .rle .literal count j) :
    s.TreesBuilt ↔ BuiltFrom 20 7 s.dec.clTree ∧ j < count ∧ count ≤ 320 ∧ s.dec.lensLit.length = 320 ∧
      LensWithin j s.dec.lensLit := by
  unfold State.TreesBuilt
  rw [hp]
  exact Iff.rfl

theorem treesBuilt_distance {s : State} {count j : Nat} (hp : s.phase = .rle .distance count j) :
    s.TreesBuilt ↔ BuiltFrom 20 7 s.dec.clTree ∧ BuiltFrom 320 14 s.dec.litTree ∧ j < count ∧ count ≤ 64 ∧
      s.dec.lensDist.length = 64 ∧ LensWithin j s.dec.lensDist := by
  unfold State.TreesBuilt
  rw [hp]
  exact Iff.rfl

theorem decodeInv_endLiteralLens {s t : State} {count : Nat} (hs : DecoderSound s) (hcl : BuiltFrom 20 7 s.dec.clTree)
    (hcount : count ≤ 320) (hle : LensWithin count s.dec.lensLit) (h : s.endLiteralLens count = .next t) : t.DecodeInv := by
  unfold State.endLiteralLens at h
  dsimp only at h
  split at h
  · cases h; exact decodeInv_raiseError hs _ _
  next tree htree =>
    split at h
    · obtain ⟨c, info, rfl⟩ := stopWith_next h
      exact decodeInv_raiseError hs _ _
    next f r hbits =>
      cases h
      obtain ⟨hlen, hlit⟩ := builtFrom_of_clearFrom hs.lit hcount hle htree
      obtain ⟨hclean, hf⟩ := getBits_clean (by decide) hs.clean hbits
      exact (decodeInv_iff _).mpr ⟨⟨hcl, hlit, Nat.succ_pos f, hf, hs.dist, fun _ ha => absurd ha (Nat.not_lt_zero _)⟩,
        hlen, hs.dist, hclean⟩

theorem decodeInv_endDistanceLens {s t : State} {count : Nat} (hs : DecoderSound s) (hlit : BuiltFrom 320 14 s.dec.litTree)
    (hcount : count ≤ 64) (hle : LensWithin count s.dec.lensDist) (h : s.endDistanceLens count = .next t) : t.DecodeInv := by
  unfold State.endDistanceLens at h
  dsimp only at h
  split at h
  · cases h; exact decodeInv_raiseError hs _ _
  next tree htree =>
    cases h
    obtain ⟨hlen, hdist⟩ := builtFrom_of_clearFrom hs.dist hcount hle htree
    exact decodeInv_symbolLoop ⟨hs.lit, hlen, hs.clean⟩ ⟨hlit, hdist⟩

theorem decodeInv_codeLength {s t : State} {q : RleSeq} {count j sym x : Nat} (hs : s.DecodeInv)
    (hp : s.phase = .rle q count j) (h : s.codeLength sym x = .next t) : t.DecodeInv := by
  obtain ⟨htrees, hsound⟩ := (decodeInv_iff s).mp hs
  cases happly : applyCodeLength sym x count j (s.dec.lensFor q) with
  | none =>
    rw [codeLength_rejected hp happly] at h
    cases h; exact decodeInv_raiseError hsound _ _
  | some a =>
    obtain ⟨lens, k⟩ := a
    rw [codeLength_accepted hp happly] at h
    cases q with
    | literal =>
      obtain ⟨hcl, hj, hcount, hlen, hle⟩ := (treesBuilt_literal hp).mp htrees
      obtain ⟨hlen', hk, hle'⟩ := applyCodeLength_keeps hj (hcount.trans_eq hlen.symm) hle happly
      have hsound' : DecoderSound { s with dec := s.dec.setLens .literal lens } :=
        ⟨hlen'.trans hlen, hsound.dist, hsound.clean⟩
      rcases Nat.lt_or_ge k count with hlt | hge
      · rw [nextCodeLength_inside hlt] at h
        cases h
        exact (decodeInv_iff _).mpr ⟨⟨hcl, hlt, hcount, hsound'.lit, hle'⟩, hsound'.lit, hsound'.dist, hsound'.clean⟩
      · obtain rfl := Nat.le_antisymm hk hge
        rw [nextCodeLength_literal hge] at h
        exact decodeInv_endLiteralLens hsound' hcl hcount hle' h
    | distance =>
      obtain ⟨hcl, hlit, hj, hcount, hlen, hle⟩ := (treesBuilt_distance hp).mp htrees
      obtain ⟨hlen', hk, hle'⟩ := applyCodeLength_keeps hj (hcount.trans_eq hlen.symm) hle happly
      have hsound' : DecoderSound { s with dec := s.dec.setLens .distance lens } :=
        ⟨hsound.lit, hlen'.trans hlen, hsound.clean⟩
      rcases Nat.lt_or_ge k count with hlt | hge
      · rw [nextCodeLength_inside hlt] at h
        cases h
        exact (decodeInv_iff _).mpr ⟨⟨hcl, hlit, hlt, hcount, hsound'.dist, hle'⟩, hsound'.lit, hsound'.dist, hsound'.clean⟩
      · obtain rfl := Nat.le_antisymm hk hge
        rw [nextCodeLength_distance hge] at h
        exact decodeInv_endDistanceLens hsound' hlit hcount hle' h

/-! Data symbols. -/

theorem decodeInv_distanceWork {s : State} (hs : DecoderSound s) (htrees : DataTrees s.dec) (len c x : Nat) :
    (s.distanceWork len c x).DecodeInv := by
  rcases distanceWork_cases s len c x with ⟨info, u, h, hu, _⟩ | ⟨d, cache, _, _, _, h⟩ <;> rw [h]
  · exact decodeInv_raiseError (by rw [hu]; exact ⟨hs.lit, hs.dist, hs.clean⟩) _ _
  · exact decodeInv_symbolLoop ⟨hs.lit, hs.dist, hs.clean⟩ htrees

/-! Instructions and steps. -/

theorem exec_decodeInv {i : Instr} {s t : State} (hs : s.DecodeInv) (h : exec i s = .next t) : t.DecodeInv := by
  obtain ⟨htrees, hsound⟩ := (decodeInv_iff s).mp hs
  rcases exec_next_cases h with ⟨_, hw⟩ | ⟨_, ⟨w, rfl⟩ | ⟨w, rfl⟩⟩ | ⟨_, hw | hw⟩ | ⟨⟨q, c, j, hp⟩, sym, x, hw⟩ |
    ⟨hp, ⟨b, rfl⟩ | ⟨n, rfl⟩⟩ | ⟨len, hp, c, x, rfl⟩
  · exact decodeInv_commandWork hsound hw
  · exact decodeInv_storedHeader hsound w
  · exact decodeInv_huffmanHeader hsound w
  · exact decodeInv_storedBlockWork hsound hw
  · exact decodeInv_compressedBlockWork hsound hw
  · exact decodeInv_codeLength hs hp hw
  · exact decodeInv_symbolLoop ⟨hsound.lit, hsound.dist, hsound.clean⟩ (dataTrees_of_phase htrees (.inl hp))
  · have hdata := dataTrees_of_phase htrees (.inl hp)
    exact (decodeInv_iff _).mpr ⟨hdata, hsound.lit, hsound.dist, hsound.clean⟩
  · exact decodeInv_distanceWork hsound (dataTrees_of_phase htrees (.inr ⟨len, hp⟩)) len c x

/-- A token runs in the state after its bits are read, which differs in the reader only. -/
theorem exec_decodeInv_of_fetch {i : Instr} {s t : State} {r : Reader} (hs : s.DecodeInv) (hr : s.rd.Clean → r.Clean)
    (h : exec i { s with rd := r } = .next t) : t.DecodeInv := by
  obtain ⟨htrees, hsound⟩ := (decodeInv_iff s).mp hs
  have hs' : State.DecodeInv { s with rd := r } :=
    (decodeInv_iff _).mpr ⟨htrees, hsound.lit, hsound.dist, hr hsound.clean⟩
  exact exec_decodeInv hs' h

theorem readBlockType_clean {mem : Memory} {r r' : Reader} {i : Instr} (h : readBlockType mem r = .ok (i, r'))
    (hc : r.Clean) : r'.Clean := by
  unfold readBlockType at h
  split at h
  · cases h
  next b r1 hbit =>
    split at h
    · cases h; exact (getBits_clean (by decide) hc hbit).1
    · cases h

theorem readToken_clean {mem : Memory} {f : Format} {tree : List Slot} {p : Nat → Bool} {r r' : Reader} {i : Instr}
    (h : readToken mem f tree p r = .ok (i, r')) (hc : r.Clean) : r'.Clean := by
  obtain ⟨_, _, _, _, _, _, _, _, hclean⟩ := readToken_ok h
  exact hclean hc

theorem engineStep_decodeInv {s t : State} (hs : s.DecodeInv) (h : engineStep s = .next t) : t.DecodeInv := by
  rcases engineStep_cases h with ⟨_, rfl⟩ | ⟨i, _, _, he⟩ | ⟨i, _, _, he⟩ | ⟨i, r, _, hr, he⟩ |
    ⟨q, c, j, i, r, _, hr, he⟩ | ⟨i, r, _, hr, he⟩ | ⟨len, i, r, _, hr, he⟩ | ⟨e, info, _, _, _, rfl⟩
  · exact hs
  · exact exec_decodeInv hs he
  · exact exec_decodeInv hs he
  · exact exec_decodeInv_of_fetch hs (readBlockType_clean hr) he
  · exact exec_decodeInv_of_fetch hs (readToken_clean hr) he
  · exact exec_decodeInv_of_fetch hs (readToken_clean hr) he
  · exact exec_decodeInv_of_fetch hs (readToken_clean hr) he
  · exact decodeInv_raiseError ((decodeInv_iff s).mp hs).2 _ _

theorem decodeInv_writeCmd {s : State} (hs : s.DecodeInv) (v : Word) : (s.writeCmd v).DecodeInv := by
  unfold State.writeCmd
  split
  · exact decodeInv_of_frame hs rfl rfl rfl
  · exact ⟨trivial, hs.2⟩

/-- Settles O6, by the cases of a step: an instruction keeps the invariant, a reset and the start of a command read no tree,
and no other step touches the decoder. -/
theorem stepKeepsDecodeInv : Obligations.StepKeepsDecodeInv := by
  unfold Obligations.StepKeepsDecodeInv
  intro s t hs h
  obtain ⟨_, _, _, hreset⟩ := resetStateIsLegal
  cases step_next_cases h with
  | engine _ h => exact engineStep_decodeInv (s := s.taken) (decodeInv_of_frame hs rfl rfl rfl) h
  | access _ _ => exact decodeInv_of_frame hs rfl rfl rfl
  | reset _ => exact decodeInv_of_frame (s := State.reset) hreset rfl rfl rfl
  | regRead _ => exact decodeInv_of_frame hs rfl rfl rfl
  | cmdWrite _ => exact decodeInv_writeCmd (s := s.entryTaken) (decodeInv_of_frame hs rfl rfl rfl) _
  | regWrite _ _ => exact decodeInv_of_frame hs rfl rfl rfl
  | memRead _ _ _ => exact decodeInv_of_frame hs rfl rfl rfl
  | memWrite _ => exact decodeInv_of_frame hs rfl rfl rfl

end Sys2Proof.Proofs

/-! PROOFS. The header forms (47_block_decoder.md R701): the stored form copies its payload, whose bytes lie in the source and so
outside the destination (20_memory.md R202), and the Huffman form starts the blocks. -/

namespace Sys2Proof.Proofs

open Sys2Proof Sys2Proof.Machine Sys2Proof.Laws

/-! The magnitude of a header (30_encoding.md R302, R313). -/

theorem headerMagnitude_of_positive {h : Word} (hpos : 0 < h.toInt) : headerMagnitude h = h :=
  if_neg (by rw [BitVec.msb_eq_toInt]; simp; omega)

theorem headerMagnitude_of_stored {h : Word} (hneg : h = 0 ∨ h.toInt < 0) : headerMagnitude h = -h := by
  rcases hneg with rfl | hneg
  · rfl
  · exact if_pos (by rw [BitVec.msb_eq_toInt]; exact decide_eq_true hneg)

theorem headerMagnitude_toNat (h : Word) : (headerMagnitude h).toNat = h.toInt.natAbs := by
  have hlt := h.isLt
  unfold headerMagnitude
  rw [BitVec.toInt_eq_msb_cond]
  split
  next hmsb =>
    have hge := BitVec.toNat_ge_of_msb_true hmsb
    rw [BitVec.toNat_neg]; omega
  · rfl

/-! Instructions at the header. -/

theorem atHeader_of_header {s : State} (hp : s.phase = .header) (f : State → State) : s.atHeader f = .next (f s) := by
  simp only [State.atHeader, hp]

theorem exec_hdrStoredEmpty {s : State} (hp : s.phase = .header) : exec .hdrStoredEmpty s = .next (s.storedHeader 0) :=
  atHeader_of_header hp (fun t => t.storedHeader 0)

theorem exec_hdrStored {s : State} (hp : s.phase = .header) (h : Word) : exec (.hdrStored h) s = .next (s.storedHeader h) :=
  atHeader_of_header hp (fun t => t.storedHeader h)

theorem exec_hdrHuffman {s : State} (hp : s.phase = .header) (h : Word) : exec (.hdrHuffman h) s = .next (s.huffmanHeader h) :=
  atHeader_of_header hp (fun t => t.huffmanHeader h)

/-- No byte of a legal source is one of the destination (R202). -/
theorem src_ne_dst {l : Latched} {i j : Nat} (h : l.rangesBad = false) (hi : i < l.n.toNat) (hj : j < l.cap.toNat) :
    l.src + BitVec.ofNat 32 i ≠ l.dst + BitVec.ofNat 32 j := by
  intro heq
  have hout := not_inRange_dst_of_src h (inRange_of_offset (src_unwrapped h) hi)
  rw [heq, inRange_of_offset (dst_unwrapped h) hj] at hout
  cases hout

/-- The payload of a stored form that fits the source and the destination is copied as it is. -/
theorem read_copy_payload {l : Latched} {k : Nat} {mem : Memory} (h : l.rangesBad = false) (hsrc : 4 + k ≤ l.n.toNat)
    (hdst : k ≤ l.cap.toNat) (j : Nat) (hj : j < k) :
    (Memory.copyForward l.dst (l.src + 4) k 0 mem).read (l.dst + BitVec.ofNat 32 j) =
      mem.read (l.src + BitVec.ofNat 32 (4 + j)) := by
  have hoff (i : Nat) : l.src + 4 + BitVec.ofNat 32 i = l.src + BitVec.ofNat 32 (4 + i) := by
    rw [BitVec.ofNat_add, ← BitVec.add_assoc]; rfl
  have hn := l.n.isLt
  rw [read_copyForward_same l.dst (l.src + 4) k 0 mem (by omega) (fun a b _ ha _ hb => ?_) j (Nat.zero_le j) (by omega),
    hoff]
  rw [hoff]
  exact src_ne_dst h (by omega) (by omega)

/-- Settles O28: of the three ends of a stored form, the capacity excludes the first. -/
theorem storedHeaderCopiesPayload : Obligations.StoredHeaderCopiesPayload := by
  unfold Obligations.StoredHeaderCopiesPayload
  intro s h i hi hp hd hclean
  have hexec : exec i s = .next (s.storedHeader h) := by
    rcases hi with ⟨rfl, rfl⟩ | ⟨_, rfl⟩
    · exact exec_hdrStoredEmpty hp
    · exact exec_hdrStored hp h
  have hneg : headerMagnitude h = -h := headerMagnitude_of_stored (hi.imp And.left And.left)
  have hbad := rangesBad_of_header hd hp
  rw [hexec, ← hneg, ← headerMagnitude_toNat]
  intro hcap
  rcases storedHeader_cases s h with ⟨hover, _⟩ | ⟨_, hshort, he⟩ | ⟨_, hfits, he⟩
  · exact absurd hcap (Nat.not_le.mpr hover)
  · refine ⟨fun hle => absurd hle (Nat.not_le.mpr hshort), fun _ => ⟨_, rfl, ?_⟩⟩
    rw [he]
    exact raiseError_erred (s := { s with dec := { s.dec with m := headerMagnitude h } }) hclean .truncatedInput 4
  · refine ⟨fun _ => ⟨_, rfl, ?_⟩, fun hlt => absurd hfits (Nat.not_le.mpr hlt)⟩
    have hn : 4 ≤ s.lat.n.toNat := by
      simp only [State.DstInv, hp] at hd
      obtain ⟨_, _, hn⟩ := hd
      exact hn
    rw [he, complete_of_untainted (by exact hclean)]
    exact ⟨rfl, rfl, read_copy_payload hbad (by omega) hcap, copyForward_sameExcept _ _ _ _, rfl, rfl, rfl,
      ⟨rfl, rfl, rfl, rfl, rfl⟩, rfl, rfl, rfl, rfl⟩

/-- Settles O29: a positive header leaves a byte to come, so the block loop goes on. -/
theorem huffmanHeaderStartsBlocks : Obligations.HuffmanHeaderStartsBlocks := by
  unfold Obligations.HuffmanHeaderStartsBlocks
  intro s h hpos hp hcap hout
  have hm := headerMagnitude_of_positive hpos
  have hcome : s.dec.out.toNat < h.toNat := by
    rw [hout, ← hm, headerMagnitude_toNat]
    exact Int.natAbs_pos.mpr hpos.ne'
  rcases huffmanHeader_cases s h with ⟨hover, _⟩ | ⟨_, he⟩
  · exact absurd hcap (Nat.not_le.mpr (hm ▸ hover))
  · rw [exec_hdrHuffman hp, he, hm]
    exact congrArg _ (if_pos hcome)

end Sys2Proof.Proofs

/-! PROOFS. The code-length token that ends a sequence (47_block_decoder.md R707, R708, R710): the array then holds the lengths
before the token, its run, and zeros, and `BuildTree` answers where their Kraft sum is one. -/

namespace Sys2Proof.Proofs

open Sys2Proof Sys2Proof.Machine Sys2Proof.Laws

/-! Building a tree. -/

theorem exists_buildTree {lens : List Nat} {n lmax : Nat} (hle : ∀ l ∈ lens, l ≤ lmax) (h : kraftOf lmax lens = 2 ^ lmax) :
    ∃ tree, buildTree lens n lmax = some tree :=
  ⟨_, if_pos ((kraftSum_eq hle).trans h)⟩

theorem buildTree_none {lens : List Nat} {n lmax : Nat} (hle : ∀ l ∈ lens, l ≤ lmax) (h : kraftOf lmax lens ≠ 2 ^ lmax) :
    buildTree lens n lmax = none :=
  if_neg fun hkraft => h ((kraftSum_eq hle).symm.trans hkraft)

/-! The ends of the two sequences. -/

section
variable {s : State} {count : Nat}

theorem endLiteralLens_corrupt (h : buildTree (lensOf (clearFrom count 320 s.dec.lensLit)) 320 14 = none) :
    s.endLiteralLens count = .next (s.raiseError .corruptInput s.rd.offset) := by
  simp only [State.endLiteralLens, Config.litN, Config.litMaxLen, h]

theorem endLiteralLens_truncated {tree : List Slot} {e : Stop}
    (h : buildTree (lensOf (clearFrom count 320 s.dec.lensLit)) 320 14 = some tree) (hbits : getBits s.mem 6 s.rd = .error e) :
    s.endLiteralLens count = s.stopWith e := by
  simp only [State.endLiteralLens, Config.litN, Config.litMaxLen, h, hbits]

theorem endLiteralLens_ok {tree : List Slot} {f : Nat} {r : Reader}
    (h : buildTree (lensOf (clearFrom count 320 s.dec.lensLit)) 320 14 = some tree)
    (hbits : getBits s.mem 6 s.rd = .ok (f, r)) :
    s.endLiteralLens count = .next { s with
      dec := { s.dec with lensLit := clearFrom count 320 s.dec.lensLit, litTree := tree }
      rd := r
      phase := .rle .distance (distCountField f) 0 } := by
  simp only [State.endLiteralLens, Config.litN, Config.litMaxLen, h, hbits]

theorem endDistanceLens_corrupt (h : buildTree (lensOf (clearFrom count 64 s.dec.lensDist)) 64 14 = none) :
    s.endDistanceLens count = .next (s.raiseError .corruptInput s.rd.offset) := by
  simp only [State.endDistanceLens, Config.distN, Config.distMaxLen, h]

theorem endDistanceLens_ok {tree : List Slot}
    (h : buildTree (lensOf (clearFrom count 64 s.dec.lensDist)) 64 14 = some tree) :
    s.endDistanceLens count = .next (State.symbolLoop { s with
      dec := { s.dec with lensDist := clearFrom count 64 s.dec.lensDist, distTree := tree, bsym := 0 } }) := by
  simp only [State.endDistanceLens, Config.distN, Config.distMaxLen, h]

end

/-! The lengths of the finished sequence. -/

/-- The lengths before index `j`, a run of `r` lengths `v`, and zeros up to the alphabet's size. -/
def finishedLens (lens : List (BitVec 4)) (j r : Nat) (v : BitVec 4) (zeros : Nat) : List (BitVec 4) :=
  lens.take j ++ List.replicate r v ++ List.replicate zeros 0

theorem clearFrom_writeLens {lens : List (BitVec 4)} {j r count : Nat} (v : BitVec 4) (hend : j + r = count)
    (hlen : count ≤ lens.length) (n : Nat) :
    clearFrom count n (writeLens (List.replicate r v.toNat) j lens) = finishedLens lens j r v (n - count) := by
  have htake := take_writeLens (vs := List.replicate r v.toNat) (i := j) (lens := lens)
    (by rw [List.length_replicate]; omega)
  rw [List.length_replicate, hend, List.map_replicate, BitVec.ofNat_toNat, BitVec.setWidth_eq] at htake
  rw [clearFrom, htake, finishedLens]

theorem finishedLens_le {lens : List (BitVec 4)} {j r zeros : Nat} {v : BitVec 4} (hle : LensWithin j lens)
    (hv : v.toNat ≤ 14) : ∀ l ∈ (finishedLens lens j r v zeros).map BitVec.toNat, l ≤ 14 := by
  intro l hl
  obtain ⟨w, hw, rfl⟩ := List.mem_map.mp hl
  rcases List.mem_append.mp hw with hw | hw
  · rcases List.mem_append.mp hw with hw | hw
    · obtain ⟨a, ha, rfl⟩ := List.mem_iff_getElem.mp hw
      rw [List.length_take] at ha
      have hget := hle a (by omega)
      rwa [List.getD_eq_getElem _ _ (by omega), ← List.getElem_take] at hget
    · rwa [(List.mem_replicate.mp hw).2]
  · rw [(List.mem_replicate.mp hw).2]; exact Nat.zero_le 14

/-! What the finished lengths make of the sequence's end. -/

section
variable {s : State} {count : Nat} {lens : List (BitVec 4)}

theorem endLiteralLens_outcomes (hclean : s.tainted = false) (hc : s.rd.Coherent s.mem)
    (hlens : clearFrom count 320 s.dec.lensLit = lens) (hle : ∀ l ∈ lens.map BitVec.toNat, l ≤ 14) :
    (kraftOf 14 (lens.map BitVec.toNat) ≠ 2 ^ 14 →
      ∃ u, s.endLiteralLens count = .next u ∧ s.ErredDecode u 4 (4 + s.rd.rp)) ∧
    (kraftOf 14 (lens.map BitVec.toNat) = 2 ^ 14 → s.rd.position + 6 ≤ s.rd.bits →
      ∃ tree rd, buildTree (lens.map BitVec.toNat) 320 14 = some tree ∧
        s.endLiteralLens count = .next { s with
          dec := { s.dec with lensLit := lens, litTree := tree }
          rd := rd
          phase := .rle .distance (1 + streamNat s.mem s.rd.base s.rd.position 6) 0 } ∧
        rd.position = s.rd.position + 6 ∧ rd.Coherent s.mem ∧ rd.base = s.rd.base ∧ rd.len = s.rd.len) ∧
    (kraftOf 14 (lens.map BitVec.toNat) = 2 ^ 14 → s.rd.bits < s.rd.position + 6 →
      ∃ u, s.endLiteralLens count = .next u ∧ s.ErredDecode u 3 (offsetAt s.rd.bits)) := by
  subst hlens
  refine ⟨fun hkraft => ?_, fun hkraft hroom => ?_, fun hkraft hshort => ?_⟩
  · exact ⟨_, endLiteralLens_corrupt (buildTree_none hle hkraft), raiseError_erred hclean .corruptInput _⟩
  · obtain ⟨tree, htree⟩ := exists_buildTree (n := 320) hle hkraft
    obtain ⟨r, hbits, hreader⟩ := (getBitsReadsStream s.mem s.rd 6 hc (by decide)).1 hroom
    refine ⟨tree, r, htree, ?_, hreader⟩
    rw [endLiteralLens_ok htree hbits, distCountField, Nat.add_comm]
  · obtain ⟨tree, htree⟩ := exists_buildTree (n := 320) hle hkraft
    exact ⟨_, endLiteralLens_truncated htree (getBits_truncated hc (by decide) hshort),
      raiseError_erred hclean .truncatedInput _⟩

theorem endDistanceLens_outcomes (hclean : s.tainted = false) (hout : s.dec.out.toNat < s.dec.m.toNat)
    (hlens : clearFrom count 64 s.dec.lensDist = lens) (hle : ∀ l ∈ lens.map BitVec.toNat, l ≤ 14) :
    (kraftOf 14 (lens.map BitVec.toNat) ≠ 2 ^ 14 →
      ∃ u, s.endDistanceLens count = .next u ∧ s.ErredDecode u 4 (4 + s.rd.rp)) ∧
    (kraftOf 14 (lens.map BitVec.toNat) = 2 ^ 14 →
      ∃ tree, buildTree (lens.map BitVec.toNat) 64 14 = some tree ∧
        s.endDistanceLens count = .next { s with
          dec := { s.dec with lensDist := lens, distTree := tree, bsym := 0 }, phase := .symbol }) := by
  subst hlens
  refine ⟨fun hkraft => ?_, fun hkraft => ?_⟩
  · exact ⟨_, endDistanceLens_corrupt (buildTree_none hle hkraft), raiseError_erred hclean .corruptInput _⟩
  · obtain ⟨tree, htree⟩ := exists_buildTree (n := 64) hle hkraft
    refine ⟨tree, htree, (endDistanceLens_ok htree).trans (congrArg _ (if_pos ⟨?_, hout⟩))⟩
    exact Nat.zero_lt_succ _

end

/-- Settles O34: the token's run completes the array, and the end of its sequence is what the Kraft sum, and for the literal
sequence the 6 bits of the distance count, make it. -/
theorem codeLengthSequenceEndBuildsTree : Obligations.CodeLengthSequenceEndBuildsTree := by
  unfold Obligations.CodeLengthSequenceEndBuildsTree
  intro i s q count j hfmt hp hd hclean hready hlen hj hle
  dsimp only
  rw [getD_runBase]
  intro hprev hend
  have hprev' : (encode i).sym ≤ 14 ∨ 0 < j := hprev
  have hend' : j + tokenRun (encode i).sym (encode i).x = count := hend
  obtain ⟨_, _, _, hcoherent⟩ := hready
  obtain ⟨_, _, _, hout⟩ := room_of_phase hd (.inr (.inl ⟨q, count, j, hp⟩))
  have hexec := codeLength_writes hp hprev' hend'.le hlen
  have hclear := clearFrom_writeLens (tokenLength (encode i).sym j (s.dec.lensFor q)) hend' hlen
  have hlens (zeros : Nat) := finishedLens_le (r := tokenRun (encode i).sym (encode i).x) (zeros := zeros) hle
    (tokenLength_le hprev' hle)
  rw [← exec_of_clsym hfmt, hend'] at hexec
  generalize writeLens (List.replicate (tokenRun (encode i).sym (encode i).x)
    (tokenLength (encode i).sym j (s.dec.lensFor q)).toNat) j (s.dec.lensFor q) = written at hexec hclear
  cases q with
  | literal =>
    rw [nextCodeLength_literal le_rfl] at hexec
    obtain ⟨hcorrupt, hcomplete, hshort⟩ := endLiteralLens_outcomes
      (s := { s with dec := s.dec.setLens .literal written }) hclean hcoherent (hclear 320) (hlens _)
    rw [hexec]
    exact ⟨hcorrupt, fun _ hq => (nomatch hq), fun hkraft _ => hcomplete hkraft, fun hkraft _ => hshort hkraft⟩
  | distance =>
    rw [nextCodeLength_distance le_rfl] at hexec
    obtain ⟨hcorrupt, hcomplete⟩ := endDistanceLens_outcomes
      (s := { s with dec := s.dec.setLens .distance written }) hclean hout (hclear 64) (hlens _)
    rw [hexec]
    exact ⟨hcorrupt, fun hkraft _ => hcomplete hkraft, fun _ hq => (nomatch hq), fun _ hq => (nomatch hq)⟩

end Sys2Proof.Proofs

/-! PROOFS. The two kinds of block (47_block_decoder.md R703 to R705): each is a sequence of bit reads, so the reader that it
leaves has consumed the bits of the whole, or the payload ends in one of the reads. -/

namespace Sys2Proof.Proofs

open Sys2Proof Sys2Proof.Machine Sys2Proof.Laws

/-! Readers that have consumed stream bits (46_bit_reader.md R650). -/

/-- The reader `r'` reads the payload of `r` and stands `k` bits further on. -/
structure Consumed (mem : Memory) (k : Nat) (r r' : Reader) : Prop where
  position : r'.position = r.position + k
  coherent : r'.Coherent mem
  base : r'.base = r.base
  len : r'.len = r.len

theorem Consumed.refl {mem : Memory} {r : Reader} (hc : r.Coherent mem) : Consumed mem 0 r r := ⟨rfl, hc, rfl, rfl⟩

theorem Consumed.trans {mem : Memory} {j k n : Nat} {r r1 r2 : Reader} (h1 : Consumed mem j r r1)
    (h2 : Consumed mem k r1 r2) (hn : j + k = n) : Consumed mem n r r2 :=
  ⟨by rw [h2.position, h1.position, ← hn, Nat.add_assoc], h2.coherent, h2.base.trans h1.base, h2.len.trans h1.len⟩

theorem Consumed.bits_eq {mem : Memory} {k : Nat} {r r' : Reader} (h : Consumed mem k r r') : r'.bits = r.bits := by
  rw [Reader.bits, Reader.bits, h.len]

section
variable {mem : Memory} {r : Reader}

/-- What is loaded lies in the whole words of the payload (R652). -/
theorem position_le_bits (hc : r.Coherent mem) : r.position ≤ r.bits := by
  obtain ⟨halign, _, hrp, _⟩ := hc
  rw [Reader.position, Reader.bits]; omega

/-- A reader loads no word before it needs it, so `4 + rp` follows from the bits consumed (R655). -/
theorem offset_eq_offsetAt (hc : r.Coherent mem) : r.offset = offsetAt r.position := by
  obtain ⟨halign, hpending, _, _⟩ := hc
  have hk := r.k.isLt
  have hrp : 4 * ((r.position + 31) / 32) = r.rp.toNat := by rw [Reader.position]; omega
  rw [offsetAt, hrp, BitVec.ofNat_add, BitVec.ofNat_toNat, BitVec.setWidth_eq]; rfl

theorem exists_getBits {k : Nat} (hc : r.Coherent mem) (hk : k ≤ 32) (hroom : r.position + k ≤ r.bits) :
    ∃ r', getBits mem k r = .ok (streamNat mem r.base r.position k, r') ∧ Consumed mem k r r' := by
  obtain ⟨r', hbits, hpos, hc', hbase, hlen⟩ := (getBitsReadsStream mem r k hc hk).1 hroom
  exact ⟨r', hbits, hpos, hc', hbase, hlen⟩

/-- The discarded bits are pending ones, so the payload does not end in them (R653). -/
theorem exists_alignReader (hc : r.Coherent mem) :
    ∃ r', alignReader mem r = .ok r' ∧ Consumed mem (alignUp r.position - r.position) r r' := by
  have hend := position_le_bits hc
  obtain ⟨halign, hpending, hrp, _⟩ := id hc
  have hwidth : alignUp r.position - r.position = r.k.toNat % 8 := by rw [alignUp, Reader.position]; omega
  have hroom : r.position + r.k.toNat % 8 ≤ r.bits := by rw [Reader.position, Reader.bits] at *; omega
  obtain ⟨r', hbits, hcons⟩ := exists_getBits hc (by omega) hroom
  exact ⟨r', by rw [alignReader, hbits], hwidth ▸ hcons⟩

end

theorem le_alignUp (pos : Nat) : pos ≤ alignUp pos := by
  rw [alignUp]; omega

theorem alignUp_mod (pos : Nat) : alignUp pos % 8 = 0 := by
  rw [alignUp]; omega

/-! Numbers and bytes of the stream. -/

theorem streamNat_lt (mem : Memory) (base : Word) (pos k : Nat) : streamNat mem base pos k < 2 ^ k := by
  induction k generalizing pos with
  | zero => exact Nat.one_pos
  | succ k ih =>
    have hrest := ih (pos + 1)
    have hbit := Bool.toNat_lt (streamBit mem base pos)
    rw [streamNat, Nat.pow_succ]; omega

/-- Eight stream bits from a byte boundary on are a byte of the payload (20_memory.md R204). -/
theorem ofNat_streamNat_byte (mem : Memory) (base : Word) {pos : Nat} (halign : pos % 8 = 0) :
    BitVec.ofNat 8 (streamNat mem base pos 8) = mem.read (base + BitVec.ofNat 32 (pos / 8)) := by
  refine BitVec.eq_of_getLsbD_eq fun i hi => ?_
  rw [BitVec.getLsbD_ofNat, testBit_streamNat, streamBit, decide_eq_true hi, Bool.true_and, Bool.true_and,
    show (pos + i) / 8 = pos / 8 by omega, show (pos + i) % 8 = i by omega]

/-! Reads of a payload that writes elsewhere leave as it is. -/

section
variable {m m' : Memory} {r r' : Reader}

theorem readWord_of_samePayload (h : SamePayload m m' r) (hroom : r.rp.toNat + 4 ≤ r.len.toNat) :
    m'.readWord (r.base + r.rp) = m.readWord (r.base + r.rp) := by
  refine BitVec.eq_of_getLsbD_eq fun i hi => ?_
  rw [readWord_getLsbD _ _ _ hi, readWord_getLsbD _ _ _ hi, streamBit, streamBit, h _ (by omega)]

theorem refill_of_samePayload (h : SamePayload m m' r) : refill m' r = refill m r := by
  unfold refill
  split
  · rfl
  next hroom => rw [readWord_of_samePayload h (by omega)]

theorem getBits_of_samePayload (h : SamePayload m m' r) (k : Nat) : getBits m' k r = getBits m k r := by
  rw [getBits, getBits, refill_of_samePayload h]

theorem SamePayload.reader {k : Nat} (h : SamePayload m m' r) (hr : Consumed m k r r') : SamePayload m m' r' := by
  rw [SamePayload, hr.base, hr.len]; exact h

end

/-! The bytes of a stored block (R703). -/

section
variable {src m : Memory} {r : Reader} {dst : Word} {k i : Nat}

/-- No payload byte of the reader is one of the `k` bytes from `dst + i` on. -/
def ApartFrom (dst : Word) (i k : Nat) (r : Reader) : Prop :=
  ∀ a < r.len.toNat, ∀ b, i ≤ b → b < i + k → r.base + BitVec.ofNat 32 a ≠ dst + BitVec.ofNat 32 b

theorem ApartFrom.samePayload_write (h : ApartFrom dst i (k + 1) r) (hsame : SamePayload src m r) (v : Byte) :
    SamePayload src (m.write (dst + BitVec.ofNat 32 i) v) r :=
  fun j hj => (read_write_other _ _ (h j hj i le_rfl (by omega))).trans (hsame j hj)

theorem ApartFrom.next {n : Nat} {r' : Reader} (h : ApartFrom dst i (k + 1) r) (hr : Consumed src n r r') :
    ApartFrom dst (i + 1) k r' := by
  rw [ApartFrom, hr.base, hr.len]
  exact fun a ha b hlo hhi => h a ha b (by omega) (by omega)

/-- The bytes of a payload, `src`, that they are not written to. -/
theorem storedBytes_ok (hc : r.Coherent src) (hsame : SamePayload src m r) (halign : r.position % 8 = 0)
    (hapart : ApartFrom dst i k r) (hwrap : i + k ≤ 2 ^ 32) (hroom : r.position + 8 * k ≤ r.bits) :
    ∃ m' r', storedBytes dst k i m r = .ok (m', r') ∧ Consumed src (8 * k) r r' ∧
      ∀ j < k, m'.read (dst + BitVec.ofNat 32 (i + j)) = src.read (r.base + BitVec.ofNat 32 (r.position / 8 + j)) := by
  induction k generalizing i m r with
  | zero => exact ⟨m, r, rfl, .refl hc, fun j hj => absurd hj (Nat.not_lt_zero j)⟩
  | succ k ih =>
    obtain ⟨r1, hbits, hread⟩ := exists_getBits hc (k := 8) (by decide) (by omega)
    have hpos := hread.position
    obtain ⟨m', r', hrest, hcons, hcopied⟩ :=
      ih (i := i + 1) (m := m.write (dst + BitVec.ofNat 32 i) (BitVec.ofNat 8 (streamNat src r.base r.position 8)))
        hread.coherent ((hapart.samePayload_write hsame _).reader hread) (by omega) (hapart.next hread) (by omega)
        (by rw [hread.bits_eq]; omega)
    refine ⟨m', r', ?_, hread.trans hcons (by omega), fun j hj => ?_⟩
    · rw [storedBytes, getBits_of_samePayload hsame, hbits]
      exact hrest
    · cases j with
      | zero =>
        rw [read_storedBytes_other _ _ _ _ hrest (fun b hlo hhi heq => ?_)]
        · exact (read_write_same _ _ _).trans (ofNat_streamNat_byte _ _ halign)
        · have := ofNat_add_inj (by omega) (by omega) heq
          omega
      | succ j =>
        have hbyte := hcopied j (by omega)
        rwa [hread.base, hpos, show i + 1 + j = i + (j + 1) by omega,
          show (r.position + 8) / 8 + j = r.position / 8 + (j + 1) by omega] at hbyte

theorem storedBytes_truncated (hc : r.Coherent src) (hsame : SamePayload src m r) (hapart : ApartFrom dst i k r)
    (hshort : r.bits < r.position + 8 * k) :
    storedBytes dst k i m r = .error (.error .truncatedInput (offsetAt r.bits)) := by
  induction k generalizing i m r with
  | zero => exact absurd hshort (Nat.not_lt.mpr (position_le_bits hc))
  | succ k ih =>
    rw [storedBytes, getBits_of_samePayload hsame]
    rcases Nat.lt_or_ge r.bits (r.position + 8) with hend | hroom
    · rw [getBits_truncated hc (by decide) hend]
    · obtain ⟨r1, hbits, hread⟩ := exists_getBits hc (by decide) hroom
      rw [hbits, ← hread.bits_eq]
      refine ih hread.coherent ((hapart.samePayload_write hsame _).reader hread) (hapart.next hread) ?_
      rw [hread.bits_eq, hread.position]; omega

end

/-! The stored block. -/

/-- The bytes that a block may produce are apart from the payload (20_memory.md R202). -/
theorem apartFrom_of_outputRoom {s : State} {k n : Nat} {r : Reader} (hready : s.readerReady) (hroom : s.outputRoom)
    (hr : Consumed s.mem n s.rd r) (hk : k ≤ s.dec.m.toNat - s.dec.out.toNat) : ApartFrom (s.lat.dst + s.dec.out) 0 k r := by
  rw [ApartFrom, hr.base, hr.len]
  intro a ha b _ hb heq
  obtain ⟨hbad, _, _⟩ := id hroom
  have hsrc := not_inRange_dst_of_src hbad (payload_inRange_src hready hbad ha)
  have hdst := outputRoom_inRange (i := b) hroom (by omega)
  rw [heq, hdst] at hsrc
  cases hsrc

theorem exec_storedBlock {s : State} (hp : s.phase = .block) : exec .storedBlock s = s.storedBlockWork := by
  show s.atBlock s.storedBlockWork = _
  simp only [State.atBlock, hp]

section
variable {s : State} {e k : Nat} {r1 r2 : Reader} {stop : Stop}

theorem storedBlockWork_of_count_error (h : getBits s.mem 8 s.rd = .error stop) : s.storedBlockWork = s.stopWith stop := by
  simp only [State.storedBlockWork, h]

theorem storedBlockWork_of_bytes_error (hextra : getBits s.mem 8 s.rd = .ok (e, r1))
    (hk : storedCount e s.dec.m.toNat s.dec.out.toNat = k) (halign : alignReader s.mem r1 = .ok r2)
    (h : storedBytes (s.lat.dst + s.dec.out) k 0 s.mem r2 = .error stop) : s.storedBlockWork = s.stopWith stop := by
  simp only [State.storedBlockWork, hextra, halign, hk, h]

theorem storedBlockWork_ok {m' : Memory} {r3 : Reader} (hextra : getBits s.mem 8 s.rd = .ok (e, r1))
    (hk : storedCount e s.dec.m.toNat s.dec.out.toNat = k) (halign : alignReader s.mem r1 = .ok r2)
    (h : storedBytes (s.lat.dst + s.dec.out) k 0 s.mem r2 = .ok (m', r3)) :
    s.storedBlockWork = .next (State.blockLoop { s with
      mem := m', rd := r3, dec := { s.dec with out := s.dec.out + BitVec.ofNat 32 k } }) := by
  simp only [State.storedBlockWork, hextra, halign, hk, h]

end

/-- After a block only the registers and the phase change, to the next block's or to those of the end (R702, R711). -/
theorem blockLoop_of_untainted {s : State} (hclean : s.tainted = false) :
    ∃ regs phase, s.blockLoop = { s with regs := regs, phase := phase } ∧ BlockNext s s.blockLoop s.dec.out.toNat := by
  unfold BlockNext
  rcases blockLoop_cases s with ⟨hmore, h⟩ | ⟨hend, h⟩
  · rw [h, if_pos hmore]
    exact ⟨_, _, rfl, rfl, rfl⟩
  · rw [h, if_neg hend, complete_of_untainted hclean]
    exact ⟨_, _, rfl, rfl, rfl⟩

/-- The reader at the first raw byte of a stored block. -/
theorem exists_storedStart {s : State} (hc : s.rd.Coherent s.mem) (hroom : s.rd.position + 8 ≤ s.rd.bits) :
    ∃ r1 r2 n, getBits s.mem 8 s.rd = .ok (streamNat s.mem s.rd.base s.rd.position 8, r1) ∧ alignReader s.mem r1 = .ok r2 ∧
      Consumed s.mem n s.rd r2 ∧ s.rd.position + n = alignUp (s.rd.position + 8) := by
  obtain ⟨r1, hcount, hread⟩ := exists_getBits hc (by decide) hroom
  obtain ⟨r2, halign, haligned⟩ := exists_alignReader hread.coherent
  rw [hread.position] at haligned
  have hle := le_alignUp (s.rd.position + 8)
  exact ⟨r1, r2, _, hcount, halign, hread.trans haligned rfl, by omega⟩

section
variable {s : State} {k : Nat} (hready : s.readerReady) (hroom : s.outputRoom)
  (hk : storedCount (streamNat s.mem s.rd.base s.rd.position 8) s.dec.m.toNat s.dec.out.toNat = k)
include hready hroom hk

/-- The payload and the bytes to be written are apart, so each byte is the payload's, whatever was copied before it. -/
theorem storedBlockWork_copies (hfits : alignUp (s.rd.position + 8) + 8 * k ≤ s.rd.bits) :
    ∃ m' r',
      s.storedBlockWork = .next (State.blockLoop { s with
        mem := m', rd := r', dec := { s.dec with out := s.dec.out + BitVec.ofNat 32 k } }) ∧
      (∀ j < k, m'.read (s.lat.dst + s.dec.out + BitVec.ofNat 32 j) =
        s.mem.read (s.rd.base + BitVec.ofNat 32 (alignUp (s.rd.position + 8) / 8 + j))) ∧
      SameExcept s.mem m' (s.lat.dst + s.dec.out) k ∧
      r'.position = alignUp (s.rd.position + 8) + 8 * k ∧ r'.Coherent s.mem ∧ r'.base = s.rd.base ∧ r'.len = s.rd.len := by
  obtain ⟨_, _, _, hc⟩ := id hready
  have hkle : k ≤ s.dec.m.toNat - s.dec.out.toNat := hk ▸ storedCount_le _ _ _
  have hm := s.dec.m.isLt
  have hle := le_alignUp (s.rd.position + 8)
  obtain ⟨r1, r2, n, hextra, halign, hread, hstart⟩ := exists_storedStart hc (by omega)
  have hpos := hread.position.trans hstart
  obtain ⟨m', r3, hbytes, hcons, hcopied⟩ := storedBytes_ok hread.coherent (fun _ _ => rfl)
    (by rw [hpos]; exact alignUp_mod _) (apartFrom_of_outputRoom hready hroom hread hkle) (by omega)
    (by rw [hpos, hread.bits_eq]; exact hfits)
  simp only [Nat.zero_add, hpos, hread.base] at hcopied
  exact ⟨m', r3, storedBlockWork_ok hextra hk halign hbytes, hcopied, storedBytes_sameExcept hbytes,
    by rw [hcons.position, hpos], hcons.coherent, hcons.base.trans hread.base, hcons.len.trans hread.len⟩

theorem storedBlockWork_truncated (hshort : s.rd.bits < alignUp (s.rd.position + 8) + 8 * k) :
    s.storedBlockWork = .next (s.raiseError .truncatedInput (offsetAt s.rd.bits)) := by
  obtain ⟨_, _, _, hc⟩ := id hready
  rcases Nat.lt_or_ge s.rd.bits (s.rd.position + 8) with hend | hcount
  · exact storedBlockWork_of_count_error (getBits_truncated hc (by decide) hend)
  · obtain ⟨r1, r2, n, hextra, halign, hread, hstart⟩ := exists_storedStart hc hcount
    have hbytes := storedBytes_truncated hread.coherent (fun _ _ => rfl)
      (apartFrom_of_outputRoom hready hroom hread (hk ▸ storedCount_le _ _ _))
      (by rw [hread.position, hread.bits_eq, hstart]; exact hshort)
    rw [hread.bits_eq] at hbytes
    exact storedBlockWork_of_bytes_error hextra hk halign hbytes

end

/-- Settles O30: the block's bytes are copied and the block loop goes on, or the payload ends in one of its reads. -/
theorem storedBlockCopiesAlignedBytes : Obligations.StoredBlockCopiesAlignedBytes := by
  unfold Obligations.StoredBlockCopiesAlignedBytes
  intro s hp hd hclean hready
  dsimp only
  generalize hk : min (8192 + streamNat s.mem s.rd.base s.rd.position 8) (s.dec.m.toNat - s.dec.out.toNat) = k
  have hroom := outputRoom_of_phase hd (.inl hp)
  rw [exec_storedBlock hp]
  refine ⟨fun hfits => ?_, fun hshort => ?_⟩
  · have hout : (s.dec.out + BitVec.ofNat 32 k).toNat = s.dec.out.toNat + k := by
      have hm := s.dec.m.isLt
      obtain ⟨_, _, hmore⟩ := hroom
      rw [BitVec.toNat_add, BitVec.toNat_ofNat]; omega
    obtain ⟨m', r', hwork, hcopied, hframe, hreader⟩ := storedBlockWork_copies hready hroom hk hfits
    obtain ⟨regs, phase, hloop, hnext⟩ := blockLoop_of_untainted (s := { s with
      mem := m', rd := r', dec := { s.dec with out := s.dec.out + BitVec.ofNat 32 k } }) hclean
    refine ⟨_, hwork, ?_⟩
    rw [← hout]
    rw [hloop] at hnext ⊢
    obtain ⟨hpos, hc, hbase, hlen⟩ := hreader
    exact ⟨hcopied, hframe, rfl, rfl, hpos, hc, hbase, hlen, hnext, ⟨rfl, rfl, rfl, rfl, rfl⟩, rfl, rfl, rfl, rfl⟩
  · exact ⟨_, storedBlockWork_truncated hready hroom hk hshort, raiseError_erred hclean _ _⟩

/-! The compressed block: the 20 lengths and the literal count. -/

/-- The `k` numbers of 3 stream bits each from `pos` on (R705). -/
def streamLengths (mem : Memory) (base : Word) (pos k : Nat) : List Nat :=
  (List.range k).map fun t => streamNat mem base (pos + 3 * t) 3

theorem streamLengths_succ (mem : Memory) (base : Word) (pos k : Nat) :
    streamLengths mem base pos (k + 1) = streamNat mem base pos 3 :: streamLengths mem base (pos + 3) k := by
  rw [streamLengths, List.range_succ_eq_map, List.map_cons, List.map_map]
  refine congrArg _ (List.map_congr_left fun t _ => ?_)
  rw [Function.comp_apply, show pos + 3 * t.succ = pos + 3 + 3 * t by omega]

theorem streamLengths_le (mem : Memory) (base : Word) (pos k : Nat) : ∀ l ∈ streamLengths mem base pos k, l ≤ 7 := by
  intro l hl
  obtain ⟨t, _, rfl⟩ := List.mem_map.mp hl
  exact Nat.le_of_lt_succ (streamNat_lt _ _ _ 3)

section
variable {mem : Memory} {r : Reader} {k : Nat}

theorem readLengths3_ok (hc : r.Coherent mem) (hroom : r.position + 3 * k ≤ r.bits) :
    ∃ r', readLengths3 mem k r = .ok (streamLengths mem r.base r.position k, r') ∧ Consumed mem (3 * k) r r' := by
  induction k generalizing r with
  | zero => exact ⟨r, rfl, .refl hc⟩
  | succ k ih =>
    obtain ⟨r1, hbits, hread⟩ := exists_getBits hc (k := 3) (by decide) (by omega)
    obtain ⟨r', hrest, hcons⟩ := ih hread.coherent (by rw [hread.position, hread.bits_eq]; omega)
    refine ⟨r', ?_, hread.trans hcons (by omega)⟩
    simp only [readLengths3, hbits, hrest, streamLengths_succ, hread.base, hread.position]

theorem readLengths3_truncated (hc : r.Coherent mem) (hshort : r.bits < r.position + 3 * k) :
    readLengths3 mem k r = .error (.error .truncatedInput (offsetAt r.bits)) := by
  induction k generalizing r with
  | zero => exact absurd hshort (Nat.not_lt.mpr (position_le_bits hc))
  | succ k ih =>
    rcases Nat.lt_or_ge r.bits (r.position + 3) with hend | hroom
    · rw [readLengths3, getBits_truncated hc (by decide) hend]
    · obtain ⟨r1, hbits, hread⟩ := exists_getBits hc (by decide) hroom
      have hrest := ih hread.coherent (by rw [hread.position, hread.bits_eq]; omega)
      simp only [readLengths3, hbits, hrest, hread.bits_eq]

end

theorem exec_compressedBlock {s : State} (hp : s.phase = .block) : exec .compressedBlock s = s.compressedBlockWork := by
  show s.atBlock s.compressedBlockWork = _
  simp only [State.atBlock, hp]

section
variable {s : State} {lens : List Nat} {tree : List Slot} {r1 : Reader} {stop : Stop}

theorem compressedBlockWork_of_lengths_error (h : readLengths3 s.mem 20 s.rd = .error stop) :
    s.compressedBlockWork = s.stopWith stop := by
  simp only [State.compressedBlockWork, Config.clN, h]

theorem compressedBlockWork_corrupt (hlens : readLengths3 s.mem 20 s.rd = .ok (lens, r1)) (h : buildTree lens 20 7 = none) :
    s.compressedBlockWork = .next (s.raiseError .corruptInput r1.offset) := by
  simp only [State.compressedBlockWork, Config.clN, Config.clMaxLen, hlens, h]

theorem compressedBlockWork_of_count_error (hlens : readLengths3 s.mem 20 s.rd = .ok (lens, r1))
    (htree : buildTree lens 20 7 = some tree) (h : getBits s.mem 6 r1 = .error stop) :
    s.compressedBlockWork = s.stopWith stop := by
  simp only [State.compressedBlockWork, Config.clN, Config.clMaxLen, hlens, htree, h]

theorem compressedBlockWork_ok {f : Nat} {r2 : Reader} (hlens : readLengths3 s.mem 20 s.rd = .ok (lens, r1))
    (htree : buildTree lens 20 7 = some tree) (h : getBits s.mem 6 r1 = .ok (f, r2)) :
    s.compressedBlockWork = .next { s with
      dec := { s.dec with lensCl := lens.map (BitVec.ofNat 4), clTree := tree }
      rd := r2
      phase := .rle .literal (litCountField f) 0 } := by
  simp only [State.compressedBlockWork, Config.clN, Config.clMaxLen, hlens, htree, h]

end

/-- Settles O31: the lengths are read before the tree is built, and the count after it, so the outcomes come in that order. -/
theorem compressedBlockReadsCodeLengthTable : Obligations.CompressedBlockReadsCodeLengthTable := by
  unfold Obligations.CompressedBlockReadsCodeLengthTable
  intro s hp hclean ⟨_, _, _, hc⟩
  have hle := streamLengths_le s.mem s.rd.base s.rd.position 20
  dsimp only
  rw [exec_compressedBlock hp, ← streamLengths]
  have hlengths := readLengths3_ok hc (k := 20)
  refine ⟨fun hroom hkraft => ?_, fun hroom hkraft => ?_, fun hshort => ?_⟩
  · obtain ⟨r1, hlens, hread⟩ := hlengths (by omega)
    obtain ⟨tree, htree⟩ := exists_buildTree (n := 20) hle hkraft
    obtain ⟨r2, hcount, hcons⟩ := exists_getBits hread.coherent (k := 6) (by decide)
      (by rw [hread.position, hread.bits_eq]; omega)
    have hall := hread.trans hcons rfl
    rw [hread.base, hread.position] at hcount
    refine ⟨_, tree, compressedBlockWork_ok hlens htree hcount, htree, ?_, hall.position, hall.coherent, hall.base, hall.len⟩
    rw [litCountField, Nat.add_comm]
  · obtain ⟨r1, hlens, hread⟩ := hlengths (by omega)
    refine ⟨_, compressedBlockWork_corrupt hlens (buildTree_none hle hkraft), ?_⟩
    rw [offset_eq_offsetAt hread.coherent, hread.position]
    exact raiseError_erred hclean _ _
  · refine ⟨s.raiseError .truncatedInput (offsetAt s.rd.bits), ?_, raiseError_erred hclean _ _⟩
    rcases Nat.lt_or_ge s.rd.bits (s.rd.position + 60) with hend | hroom
    · exact compressedBlockWork_of_lengths_error (readLengths3_truncated hc hend)
    · obtain ⟨hend, hkraft⟩ := hshort.resolve_left (Nat.not_lt.mpr hroom)
      obtain ⟨r1, hlens, hread⟩ := hlengths hroom
      obtain ⟨tree, htree⟩ := exists_buildTree (n := 20) hle hkraft
      have hcount := getBits_truncated hread.coherent (k := 6) (by decide) (by rw [hread.position, hread.bits_eq]; omega)
      rw [hread.bits_eq] at hcount
      exact compressedBlockWork_of_count_error hlens htree hcount

end Sys2Proof.Proofs

/-! PROOFS. The overlap copy (48_symbol_decoder_and_copy.md R759): each byte is read after the bytes before it are written, so the
finished output obeys one equation that goes `d` positions back, and its period follows by induction. -/

namespace Sys2Proof.Proofs

open Sys2Proof Sys2Proof.Machine Sys2Proof.Laws

/-! Addresses. -/

theorem add_add_ofNat (a off : Word) (j : Nat) : a + off + BitVec.ofNat 32 j = a + BitVec.ofNat 32 (off.toNat + j) := by
  rw [BitVec.ofNat_add, BitVec.ofNat_toNat, BitVec.setWidth_eq, BitVec.add_assoc]

/-- The byte `d` positions behind the one at `out + j`. -/
theorem add_sub_add_ofNat (a : Word) {out : Word} {d : Nat} (hd : d ≤ out.toNat) (j : Nat) :
    a + (out - BitVec.ofNat 32 d) + BitVec.ofNat 32 j = a + BitVec.ofNat 32 (out.toNat - d + j) := by
  have hlt := out.isLt
  have hback : (out - BitVec.ofNat 32 d).toNat = out.toNat - d := by
    have hval : (BitVec.ofNat 32 d).toNat = d := Nat.mod_eq_of_lt (by omega)
    rw [BitVec.toNat_sub_of_le (by rw [BitVec.le_def, hval]; exact hd), hval]
  rw [add_add_ofNat, hback]

/-! The bytewise copy. -/

/-- A byte that a copy writes is the byte that its source held when the bytes before it were written. -/
theorem read_copyForward (dst src : Word) {count i j : Nat} (m : Memory) (hc : i + count ≤ 2 ^ 32) (hj : j < count) :
    (Memory.copyForward dst src count i m).read (dst + BitVec.ofNat 32 (i + j)) =
      (Memory.copyForward dst src j i m).read (src + BitVec.ofNat 32 (i + j)) := by
  induction count generalizing i j m with
  | zero => exact absurd hj (Nat.not_lt_zero j)
  | succ count ih =>
    rw [Memory.copyForward]
    cases j with
    | zero =>
      rw [read_copyForward_other _ _ _ _ _ _ fun k hlo hhi heq => ?_]
      · exact read_write_same _ _ _
      · have := ofNat_add_inj (by omega) (by omega) heq
        omega
    | succ j =>
      rw [Memory.copyForward, show i + (j + 1) = i + 1 + j by omega]
      exact ih _ (by omega) (by omega)

section
variable {s : State} {len d j : Nat}

/-- The byte at `out + j` is the one `d` positions behind it after the first `j` bytes of the copy. -/
theorem read_copyMatch_at (hback : d ≤ s.dec.out.toNat) (hend : s.dec.out.toNat + len ≤ 2 ^ 32) (hj : j < len) :
    (s.copyMatch len d).mem.read (s.lat.dst + BitVec.ofNat 32 (s.dec.out.toNat + j)) =
      (s.copyMatch j d).mem.read (s.lat.dst + BitVec.ofNat 32 (s.dec.out.toNat - d + j)) := by
  have hcopy := read_copyForward (s.lat.dst + s.dec.out) (s.lat.dst + (s.dec.out - BitVec.ofNat 32 d)) (i := 0) s.mem
    (by omega) hj
  rwa [Nat.zero_add, add_add_ofNat, add_sub_add_ofNat _ hback] at hcopy

/-- The output before the copy stays. -/
theorem read_copyMatch_before {p : Nat} (hend : s.dec.out.toNat + len ≤ 2 ^ 32) (hp : p < s.dec.out.toNat) :
    (s.copyMatch len d).mem.read (s.lat.dst + BitVec.ofNat 32 p) = s.mem.read (s.lat.dst + BitVec.ofNat 32 p) := by
  refine copyForward_sameExcept _ _ _ _ _ fun k hk heq => ?_
  rw [add_add_ofNat] at heq
  have hlt := s.dec.out.isLt
  have := ofNat_add_inj (by omega) (by omega) heq
  omega

/-- Each byte of the copy is the one `d` positions behind it in the finished output (R759). -/
theorem read_copyMatch_recurrence (hd : 0 < d) (hback : d ≤ s.dec.out.toNat) (hend : s.dec.out.toNat + len ≤ 2 ^ 32)
    (hj : j < len) :
    (s.copyMatch len d).mem.read (s.lat.dst + BitVec.ofNat 32 (s.dec.out.toNat + j)) =
      (s.copyMatch len d).mem.read (s.lat.dst + BitVec.ofNat 32 (s.dec.out.toNat + j - d)) := by
  rw [read_copyMatch_at hback hend hj, show s.dec.out.toNat + j - d = s.dec.out.toNat - d + j by omega]
  rcases Nat.lt_or_ge j d with hfirst | hlater
  · rw [read_copyMatch_before (by omega) (by omega), read_copyMatch_before hend (by omega)]
  · rw [show s.dec.out.toNat - d + j = s.dec.out.toNat + (j - d) by omega, read_copyMatch_at hback (by omega) (by omega),
      read_copyMatch_at hback hend (by omega)]

/-- The copy repeats the last `d` bytes (R759): one period back is the same byte, and the first period is the output before
the copy. -/
theorem read_copyMatch_periodic (hd : 0 < d) (hback : d ≤ s.dec.out.toNat) (hend : s.dec.out.toNat + len ≤ 2 ^ 32)
    (hj : j < len) :
    (s.copyMatch len d).mem.read (s.lat.dst + BitVec.ofNat 32 (s.dec.out.toNat + j)) =
      s.mem.read (s.lat.dst + BitVec.ofNat 32 (s.dec.out.toNat - d + j % d)) := by
  induction j using Nat.strongRecOn with
  | ind j ih =>
    rw [read_copyMatch_recurrence hd hback hend hj]
    rcases Nat.lt_or_ge j d with hfirst | hlater
    · rw [read_copyMatch_before hend (by omega), Nat.mod_eq_of_lt hfirst, Nat.sub_add_comm hback]
    · rw [Nat.add_sub_assoc hlater, ih (j - d) (by omega) (by omega), Nat.mod_eq_sub_mod hlater]

end

/-- Settles O40: the copy's two equations are those of its recurrence, and its frame that of the bytewise copy. -/
theorem overlapCopyIsPeriodic : Obligations.OverlapCopyIsPeriodic := by
  unfold Obligations.OverlapCopyIsPeriodic
  intro s len d hd hback hend
  exact ⟨fun j => read_copyMatch_periodic hd hback hend, fun j => read_copyMatch_recurrence hd hback hend,
    copyForward_sameExcept _ _ _ _, rfl⟩

end Sys2Proof.Proofs

/-! PROOFS. The data symbols (48_symbol_decoder_and_copy.md R754 to R759): what a literal, a length and a distance token do, and
where the symbol loop goes after them (R710). -/

namespace Sys2Proof.Proofs

open Sys2Proof Sys2Proof.Machine Sys2Proof.Laws

/-! What follows a data symbol (R710). -/

/-- After a data symbol only the registers and the phase change, to the next symbol's or to those after the block. -/
theorem symbolLoop_of_untainted {s : State} (hclean : s.tainted = false) :
    ∃ regs phase, s.symbolLoop = { s with regs := regs, phase := phase } ∧
      SymbolNext s s.symbolLoop s.dec.out.toNat s.dec.bsym.toNat := by
  unfold SymbolNext
  rcases symbolLoop_cases s with ⟨hbudget, hmore, h⟩ | ⟨hend, h⟩
  · rw [h, if_pos ⟨hbudget, hmore⟩]
    exact ⟨_, _, rfl, rfl, rfl⟩
  · rw [h, if_neg hend]
    exact blockLoop_of_untainted hclean

/-! Literals and lengths (R754, R755). -/

theorem atSymbol_of_symbol {s : State} (hp : s.phase = .symbol) (f : State → State) :
    s.atSymbol f = .next (f { s with dec := { s.dec with bsym := s.dec.bsym + 1 } }) := by
  simp only [State.atSymbol, hp]

theorem exec_lit {s : State} (hp : s.phase = .symbol) (b : Byte) :
    exec (.lit b) s = .next ({ s with dec := { s.dec with bsym := s.dec.bsym + 1 } }.literal b) :=
  atSymbol_of_symbol hp fun t => t.literal b

theorem lengthToken_of_symbol {s : State} (hp : s.phase = .symbol) (i x : Nat) :
    s.lengthToken i x = .next { s with
      dec := { s.dec with bsym := s.dec.bsym + 1 }
      phase := .dist (lenBase i + x) } :=
  atSymbol_of_symbol hp fun t => { t with phase := .dist (matchLength i x) }

/-- The length instructions are those of the literal/length symbols past the bytes (30_encoding.md R311). -/
theorem exec_of_length {i : Instr} (hfmt : (encode i).fmt = .llsym) (hsym : 256 ≤ (encode i).sym) (s : State) :
    exec i s = s.lengthToken ((encode i).sym - 256) (encode i).x := by
  rcases exec_of_llsym hfmt s with ⟨b, rfl⟩ | ⟨_, h⟩
  · exact absurd b.isLt (Nat.not_lt.mpr hsym)
  · exact h

/-- Settles O36: the instruction is the length token of its symbol, which counts the symbol and selects the length. -/
theorem lengthTokenSelectsLength : Obligations.LengthTokenSelectsLength := by
  unfold Obligations.LengthTokenSelectsLength
  intro i s hfmt hsym hp
  rw [exec_of_length hfmt hsym, lengthToken_of_symbol hp]

/-- Settles O35: the byte goes to the output position, for which the invariant has room, and the symbol loop goes on from
there. -/
theorem literalWritesOneByte : Obligations.LiteralWritesOneByte := by
  unfold Obligations.LiteralWritesOneByte
  intro b s hp hd hclean hbudget
  have hroom := outputRoom_of_phase hd (.inr (.inr (.inl hp)))
  obtain ⟨_, _, hmore⟩ := id hroom
  have hm := s.dec.m.isLt
  have hout : (s.dec.out + 1).toNat = s.dec.out.toNat + 1 := by
    rw [BitVec.toNat_add]; exact Nat.mod_eq_of_lt (by simp; omega)
  have hbsym : (s.dec.bsym + 1).toNat = s.dec.bsym.toNat + 1 := by
    rw [BitVec.toNat_add]; exact Nat.mod_eq_of_lt (by simp; omega)
  obtain ⟨regs, phase, hloop, hnext⟩ := symbolLoop_of_untainted (s := { s with
    mem := s.mem.write (s.lat.dst + s.dec.out) b
    dec := { s.dec with out := s.dec.out + 1, bsym := s.dec.bsym + 1 } }) hclean
  refine ⟨by simpa using outputRoom_inRange (i := 0) hroom hmore, _, exec_lit hp b, ?_⟩
  rw [← hout, ← hbsym, State.literal]
  rw [hloop] at hnext ⊢
  exact ⟨read_write_same _ _ _, fun _ => read_write_other _ _, rfl, hnext, rfl, rfl, ⟨rfl, rfl, rfl, rfl, rfl⟩,
    rfl, rfl, rfl, rfl⟩

/-! Distances (R756 to R759). -/

/-- The distance that a distance symbol and its extra value stand for (R756, R757); 0 for an empty cache entry. -/
def tokenDistance (cache : Cache) (c x : Nat) : Nat :=
  if c = 0 then cache.r0.toNat else if c = 1 then cache.r1.toNat else if c = 2 then cache.r2.toNat else distBase c + x

theorem unmapDist_cases (cache : Cache) (c x : Nat) :
    unmapDist cache c x = none ∨ ∃ cache', unmapDist cache c x = some (tokenDistance cache c x, cache') := by
  rcases Nat.lt_or_ge 2 c with hband | hcode
  · refine .inr ⟨cache.push (distBase c + x), ?_⟩
    rw [unmapDist_of_band hband, tokenDistance, if_neg (by omega), if_neg (by omega), if_neg (by omega)]
  · have hentry : cache.entry c = tokenDistance cache c x := by
      unfold Cache.entry tokenDistance
      split_ifs <;> first | rfl | omega
    by_cases hempty : cache.entry c = 0
    · exact .inl (by rw [unmapDist, if_pos hcode, if_pos hempty])
    · exact .inr ⟨_, hentry ▸ unmapDist_of_entry hcode hempty x⟩

section
variable {s : State} {len c x d : Nat} {cache : Cache}

theorem distanceToken_of_dist (hp : s.phase = .dist len) (c x : Nat) :
    s.distanceToken c x = .next (s.distanceWork len c x) := by
  simp only [State.distanceToken, hp]

theorem distanceWork_empty (h : unmapDist s.cache c x = none) :
    s.distanceWork len c x = s.raiseError .corruptInput s.rd.offset := by
  simp only [State.distanceWork, h]

theorem distanceWork_rejected (h : unmapDist s.cache c x = some (d, cache))
    (hbad : s.dec.out.toNat < d ∨ s.dec.m.toNat - s.dec.out.toNat < len) :
    s.distanceWork len c x = State.raiseError { s with cache := cache } .corruptInput s.rd.offset := by
  simp only [State.distanceWork, h]
  split
  · rfl
  next hd => rw [if_pos (hbad.resolve_left hd)]

theorem distanceWork_copies (h : unmapDist s.cache c x = some (d, cache)) (hback : d ≤ s.dec.out.toNat)
    (hlen : len ≤ s.dec.m.toNat - s.dec.out.toNat) :
    s.distanceWork len c x = ({ s with cache := cache }.copyMatch len d).symbolLoop := by
  simp only [State.distanceWork, h]
  rw [if_neg (Nat.not_lt.mpr hback), if_neg (Nat.not_lt.mpr hlen)]

end

/-- Settles O39: an empty entry, a distance that is too long and a length that is too long end in the same error, whatever
became of the cache. -/
theorem distanceTokenRejected : Obligations.DistanceTokenRejected := by
  unfold Obligations.DistanceTokenRejected
  intro i s len hfmt hp hclean
  dsimp only
  rw [exec_of_dsym hfmt, distanceToken_of_dist hp, ← tokenDistance]
  intro hbad
  refine ⟨_, rfl, ?_⟩
  rcases unmapDist_cases s.cache (encode i).sym (encode i).x with h | ⟨cache, h⟩
  · rw [distanceWork_empty h]
    exact ⟨raiseError_erred hclean _ _, by rw [raiseError_dec]⟩
  · rw [distanceWork_rejected h hbad]
    exact ⟨raiseError_erred (s := { s with cache := cache }) hclean _ _, by rw [raiseError_dec]⟩

/-- Where an accepted distance token leaves the machine: `len` bytes copied from `d` positions back, the cache as given, and
the decoder at what follows a data symbol. -/
def MatchCopied (s t : State) (len d : Nat) (cache : Cache) : Prop :=
  (∀ j, j < len → t.mem.read (s.lat.dst + BitVec.ofNat 32 (s.dec.out.toNat + j)) =
    s.mem.read (s.lat.dst + BitVec.ofNat 32 (s.dec.out.toNat - d + j % d))) ∧
  SameExcept s.mem t.mem (s.lat.dst + s.dec.out) len ∧
  t.dec = { s.dec with out := s.dec.out + BitVec.ofNat 32 len } ∧
  t.cache = cache ∧
  SymbolNext s t (s.dec.out.toNat + len) s.dec.bsym.toNat ∧
  t.rd = s.rd ∧ KeepsCompressor s t ∧ KeepsCommand s t

section
variable {s : State} {len c x d : Nat} {cache : Cache}
  (hp : s.phase = .dist len) (hd : s.DstInv) (hclean : s.tainted = false)
include hp hd hclean

theorem distanceToken_copies (h : unmapDist s.cache c x = some (d, cache)) (hpos : 0 < d) (hback : d ≤ s.dec.out.toNat)
    (hlen : len ≤ s.dec.m.toNat - s.dec.out.toNat) :
    ∃ t, s.distanceToken c x = .next t ∧ MatchCopied s t len d cache := by
  obtain ⟨_, _, hmore⟩ := outputRoom_of_phase hd (.inr (.inr (.inr ⟨len, hp⟩)))
  have hm := s.dec.m.isLt
  have hend : s.dec.out.toNat + len ≤ 2 ^ 32 := by omega
  have hout : (s.dec.out + BitVec.ofNat 32 len).toNat = s.dec.out.toNat + len := by
    rw [BitVec.toNat_add, BitVec.toNat_ofNat]; omega
  obtain ⟨regs, phase, hloop, hnext⟩ := symbolLoop_of_untainted (s := { s with cache := cache }.copyMatch len d) hclean
  refine ⟨_, distanceToken_of_dist hp c x, ?_⟩
  rw [distanceWork_copies h hback hlen, MatchCopied, ← hout]
  rw [hloop] at hnext ⊢
  exact ⟨fun j => read_copyMatch_periodic hpos hback hend, copyForward_sameExcept _ _ _ _, rfl, rfl, hnext, rfl,
    ⟨rfl, rfl, rfl, rfl, rfl⟩, rfl, rfl, rfl, rfl⟩

/-- A cache code with an empty entry is an error, and with a distance in it copies and promotes it (R756). -/
theorem repToken_outcomes (hcode : c ≤ 2) :
    (s.cache.entry c = 0 → ∃ t, s.distanceToken c 0 = .next t ∧ s.ErredDecode t 4 (4 + s.rd.rp)) ∧
    (0 < s.cache.entry c → s.cache.entry c ≤ s.dec.out.toNat → len ≤ s.dec.m.toNat - s.dec.out.toNat →
      ∃ t, s.distanceToken c 0 = .next t ∧ MatchCopied s t len (s.cache.entry c) (s.cache.promote c)) := by
  refine ⟨fun hempty => ⟨_, distanceToken_of_dist hp c 0, ?_⟩, fun hpos hback hlen => ?_⟩
  · rw [distanceWork_empty (by rw [unmapDist, if_pos hcode, if_pos hempty])]
    exact raiseError_erred hclean _ _
  · exact distanceToken_copies hp hd hclean (unmapDist_of_entry hcode hpos.ne' 0) hpos hback hlen

end

/-- Settles O37: each of the three instructions is the cache code of its entry. -/
theorem repTokenCopiesCachedDistance : Obligations.RepTokenCopiesCachedDistance := by
  unfold Obligations.RepTokenCopiesCachedDistance
  intro i s len hi hp hd hclean
  simp only [List.mem_cons, List.not_mem_nil, or_false] at hi
  rcases hi with rfl | rfl | rfl
  · exact repToken_outcomes (c := 0) hp hd hclean (by decide)
  · exact repToken_outcomes (c := 1) hp hd hclean (by decide)
  · exact repToken_outcomes (c := 2) hp hd hclean (by decide)

/-- A distance symbol is one of 64 (30_encoding.md R312). -/
theorem sym_lt_of_dsym {i : Instr} (h : (encode i).fmt = .dsym) : (encode i).sym < 64 := by
  cases i <;> first | (cases h; done) | exact Nat.le_of_ble_eq_true rfl

/-- Settles O38: a code past the cache codes stands for a distance of its band, which is at least 3. -/
theorem freshDistanceCopies : Obligations.FreshDistanceCopies := by
  unfold Obligations.FreshDistanceCopies
  intro i s len hfmt hsym hp hd hclean
  dsimp only
  intro hback hlen
  have hbase : distBase 3 ≤ distBase (encode i).sym := distBands.base_low_le hsym (Nat.le_of_lt_succ (sym_lt_of_dsym hfmt))
  have hthree : distBase 3 = 3 := rfl
  rw [exec_of_dsym hfmt]
  exact distanceToken_copies hp hd hclean (unmapDist_of_band hsym _ _) (by omega) hback hlen

end Sys2Proof.Proofs

/-! PROOFS. A complete code has a codeword at the beginning of every bit string (43_huffman_builder.md R510): on the first level
whose numbers up to `next[b] + blc[b]` hold the string's beginning, that beginning is a code. -/

namespace Sys2Proof.Proofs

open Sys2Proof Sys2Proof.Machine Sys2Proof.Laws

/-! The numbers that a bit string begins with. -/

/-- The number whose bits are the first `k` of a bit string, most significant first. -/
def leading (bits : Nat → Nat) : Nat → Nat
  | 0 => 0
  | k + 1 => 2 * leading bits k + bits k

section
variable {bits : Nat → Nat} (hbits : ∀ j, bits j < 2)
include hbits

theorem leading_lt (k : Nat) : leading bits k < 2 ^ k := by
  induction k with
  | zero => exact Nat.one_pos
  | succ k ih =>
    have hbit := hbits k
    rw [leading, Nat.pow_succ]
    omega

theorem codeBit_leading {k j : Nat} (hj : j < k) : codeBit (leading bits k) (k - 1 - j) = bits j := by
  induction k with
  | zero => exact absurd hj (Nat.not_lt_zero j)
  | succ k ih =>
    have hlast := hbits k
    rw [leading, codeBit]
    rcases Nat.lt_succ_iff_lt_or_eq.mp hj with hearlier | rfl
    · rw [show k + 1 - 1 - j = k - 1 - j + 1 by omega, Nat.pow_succ', ← Nat.div_div_eq_div_mul,
        show (2 * leading bits k + bits k) / 2 = leading bits k by omega]
      exact ih hearlier
    · rw [Nat.add_sub_cancel, Nat.sub_self, Nat.pow_zero, Nat.div_one]
      omega

end

/-! The code at the beginning. -/

/-- Every count below the number of occurrences is that of the occurrences before one of them. -/
theorem exists_count_take {lens : List Nat} {l k : Nat} (hk : k < lens.count l) :
    ∃ s < lens.length, lens.getD s 0 = l ∧ (lens.take s).count l = k := by
  induction lens generalizing k with
  | nil => exact absurd hk (Nat.not_lt_zero k)
  | cons x rest ih =>
    rw [List.count_cons] at hk
    by_cases hx : x = l
    · cases k with
      | zero => exact ⟨0, Nat.succ_pos _, hx, rfl⟩
      | succ k =>
        obtain ⟨s, hs, hget, hcount⟩ := ih (k := k) (by simpa [hx] using hk)
        exact ⟨s + 1, Nat.succ_lt_succ hs, hget, by simp [hx, hcount]⟩
    · obtain ⟨s, hs, hget, hcount⟩ := ih (k := k) (by simpa [hx] using hk)
      exact ⟨s + 1, Nat.succ_lt_succ hs, hget, by simp [hx, hcount]⟩

/-- Every bit string begins with a code of a complete code. -/
theorem exists_canonCode_eq_leading {lens : List Nat} {n lmax : Nat} (h : CompleteCode lens n lmax) {bits : Nat → Nat}
    (hbits : ∀ j, bits j < 2) :
    ∃ s < n, lens.getD s 0 ≠ 0 ∧ canonCode lens lmax s = leading bits (lens.getD s 0) := by
  have hlast : leading bits lmax < levelEnd (histogram lens lmax) lmax := (levelEnd_last h).symm ▸ leading_lt hbits lmax
  have hexists : ∃ b, leading bits b < levelEnd (histogram lens lmax) b := ⟨lmax, hlast⟩
  obtain ⟨b, hfound, hfirst⟩ : ∃ b, leading bits b < levelEnd (histogram lens lmax) b ∧
      ∀ a < b, levelEnd (histogram lens lmax) a ≤ leading bits a :=
    ⟨Nat.find hexists, Nat.find_spec hexists, fun a ha => Nat.le_of_not_lt (Nat.find_min hexists ha)⟩
  have hb : b ≤ lmax := Nat.le_of_not_lt fun hlt => absurd hlast (Nat.not_lt.mpr (hfirst lmax hlt))
  cases b with
  | zero =>
    rw [levelEnd, histogram_zero] at hfound
    exact absurd hfound (Nat.not_lt_zero _)
  | succ b =>
    have hge : firstCode (histogram lens lmax) (b + 1) ≤ leading bits (b + 1) := by
      have hbefore := hfirst b (Nat.lt_succ_self b)
      rw [firstCode_succ, leading]
      omega
    rw [levelEnd, histogram_getD (Nat.le_add_left 1 b) hb] at hfound
    obtain ⟨s, hs, hlen, hcount⟩ := exists_count_take (lens := lens) (l := b + 1)
      (k := leading bits (b + 1) - firstCode (histogram lens lmax) (b + 1)) (by omega)
    have hused : lens.getD s 0 ≠ 0 := by rw [hlen]; exact Nat.succ_ne_zero b
    obtain ⟨hn, -, -⟩ := id h
    refine ⟨s, hn ▸ hs, hused, ?_⟩
    rw [canonCode_eq h hused, hlen, hcount]
    omega

end Sys2Proof.Proofs

/-! PROOFS. The decoder's steps always answer (48_symbol_decoder_and_copy.md R751, 70_reset_and_hazards.md R959): in the tree of a
complete code every bit string leads to a symbol of the alphabet, so a fetch gives a token or raises an error, and each token's
instruction answers in the decoder state that its format belongs to. -/

namespace Sys2Proof.Proofs

open Sys2Proof Sys2Proof.Machine Sys2Proof.Laws

/-! Trees in which every walk ends at a symbol. -/

/-- Within `depth` bits every walk from `node` ends at a leaf of one of `n` symbols. -/
def WalksEnd (tree : List Slot) (n : Nat) : Nat → Nat → Prop
  | 0, _ => False
  | depth + 1, node => ∀ b < 2, (∃ s, tree.getD (2 * node + b) .empty = .leaf s ∧ s.toNat < n) ∨
      ∃ j, tree.getD (2 * node + b) .empty = .node j ∧ WalksEnd tree n depth j.toNat

/-- Every bit string begins with the code of a symbol that `node` leads to. -/
def LeadsEverywhere (tree : List Slot) (n depth node : Nat) : Prop :=
  ∀ bits : Nat → Nat, (∀ j, bits j < 2) →
    ∃ s code l, s < n ∧ l ≤ depth ∧ Leads tree s code l node ∧ ∀ j < l, codeBit code (l - 1 - j) = bits j

/-- A bit string with one more bit before it. -/
def consBit (b : Nat) (bits : Nat → Nat) : Nat → Nat
  | 0 => b
  | j + 1 => bits j

/-- One bit down from a node that leads everywhere: a leaf, or a child that leads to the codes that go on. -/
theorem LeadsEverywhere.slot {tree : List Slot} {n depth node b : Nat} (h : LeadsEverywhere tree n (depth + 1) node)
    (hb : b < 2) {bits : Nat → Nat} (hbits : ∀ j, bits j < 2) :
    ∃ s code i, s < n ∧ i ≤ depth ∧ (∀ j < i, codeBit code (i - 1 - j) = bits j) ∧
      (tree.getD (2 * node + b) .empty = .leaf (BitVec.ofNat 9 s) ∨
        ∃ k, tree.getD (2 * node + b) .empty = .node k ∧ Leads tree s code i k.toNat) := by
  obtain ⟨s, code, l, hs, hl, hleads, hcode⟩ := h (consBit b bits) (fun j => by cases j; exacts [hb, hbits _])
  cases l with
  | zero => exact hleads.elim
  | succ i =>
    obtain rfl : codeBit code i = b := hcode 0 (Nat.succ_pos i)
    refine ⟨s, code, i, hs, Nat.le_of_succ_le_succ hl, fun j hj => ?_, ?_⟩
    · have hnext := hcode (j + 1) (Nat.succ_lt_succ hj)
      rwa [show i + 1 - 1 - (j + 1) = i - 1 - j by omega] at hnext
    · cases i with
      | zero => exact .inl hleads
      | succ i => exact .inr hleads

theorem walksEnd_of_leadsEverywhere {tree : List Slot} {n depth node : Nat} (hn : n ≤ 512)
    (h : LeadsEverywhere tree n depth node) : WalksEnd tree n depth node := by
  induction depth generalizing node with
  | zero =>
    obtain ⟨s, code, l, _, hl, hleads, _⟩ := h (fun _ => 0) (fun _ => Nat.two_pos)
    obtain rfl := Nat.le_zero.mp hl
    exact hleads
  | succ depth ih =>
    intro b hb
    obtain ⟨s, _, _, hs, _, _, hleaf | ⟨k, hk, _⟩⟩ := h.slot hb (bits := fun _ => 0) fun _ => Nat.two_pos
    · refine .inl ⟨_, hleaf, ?_⟩
      rwa [BitVec.toNat_ofNat, Nat.mod_eq_of_lt (hs.trans_le hn)]
    · refine .inr ⟨k, hk, ih fun bits hbits => ?_⟩
      obtain ⟨s', code, i, hs', hi, hcode, hleaf | ⟨k', hk', hleads⟩⟩ := h.slot hb hbits
      · cases hk.symm.trans hleaf
      · cases hk.symm.trans hk'
        exact ⟨s', code, i, hs', hi, hleads, hcode⟩

/-- The tree of a complete code (R709). -/
theorem walksEnd_of_builtFrom {tree : List Slot} {n lmax : Nat} (h : BuiltFrom n lmax tree) (hn : n ≤ 512) (hmax : 1 ≤ lmax) :
    WalksEnd tree n lmax 0 := by
  obtain ⟨lens, hcomplete, htree⟩ := h
  refine walksEnd_of_leadsEverywhere hn fun bits hbits => ?_
  obtain ⟨s, hs, hused, hcode⟩ := exists_canonCode_eq_leading hcomplete hbits
  obtain ⟨tree', htree', hleads⟩ := buildTree_leads hcomplete hn hmax hused
  obtain rfl : tree = tree' := Option.some.inj (htree.symm.trans htree')
  exact ⟨s, _, _, hs, length_le_max hcomplete hused, hleads, fun j hj => hcode ▸ codeBit_leading hbits hj⟩

/-! Reads of the stream that give a value or raise. -/

/-- The stop is an error that ends the command, neither a fault nor a refusal. -/
def Raises (e : Stop) : Prop := ∃ c info, e = .error c info

theorem stopWith_of_raises {e : Stop} (h : Raises e) (s : State) : ∃ t, s.stopWith e = .next t := by
  obtain ⟨c, info, rfl⟩ := h
  exact ⟨_, rfl⟩

section
variable {mem : Memory} {r : Reader} {e : Stop}

theorem getBits_raises {k : Nat} (h : getBits mem k r = .error e) : Raises e := by
  obtain ⟨rfl, _⟩ := getBits_error h
  exact ⟨_, _, rfl⟩

theorem alignReader_raises (h : alignReader mem r = .error e) : Raises e := by
  unfold alignReader at h
  split at h
  next hbits => cases h; exact getBits_raises hbits
  · cases h

theorem readLengths3_raises {k : Nat} (h : readLengths3 mem k r = .error e) : Raises e := by
  induction k generalizing r with
  | zero => cases h
  | succ k ih =>
    rw [readLengths3] at h
    split at h
    next hbits => cases h; exact getBits_raises hbits
    · split at h
      next hrest => cases h; exact ih hrest
      · cases h

theorem storedBytes_raises {dst : Word} {k i : Nat} (h : storedBytes dst k i mem r = .error e) : Raises e := by
  induction k generalizing i mem r with
  | zero => cases h
  | succ k ih =>
    rw [storedBytes] at h
    split at h
    next hbits => cases h; exact getBits_raises hbits
    · exact ih h

theorem readBlockType_raises (h : readBlockType mem r = .error e) : Raises e := by
  unfold readBlockType at h
  split at h
  next hbits => cases h; exact getBits_raises hbits
  · split at h
    · cases h
    next hdec => cases hdec

/-- A walk that always ends gives a symbol of the alphabet, or runs out of the stream (R751, R752). -/
theorem getCodeFrom_of_walksEnd {tree : List Slot} {n depth fuel node : Nat} (hw : WalksEnd tree n depth node)
    (hfuel : depth ≤ fuel) (hc : r.Clean) :
    (∃ sym r', getCodeFrom mem tree fuel node r = .ok (sym, r') ∧ sym < n) ∨
      ∃ e, getCodeFrom mem tree fuel node r = .error e ∧ Raises e := by
  induction depth generalizing fuel node r with
  | zero => exact hw.elim
  | succ depth ih =>
    obtain ⟨fuel, rfl⟩ := Nat.exists_eq_add_of_le' (Nat.one_le_of_lt hfuel)
    rw [getCodeFrom]
    cases hbit : getBits mem 1 r with
    | error e => exact .inr ⟨e, rfl, getBits_raises hbit⟩
    | ok a =>
      obtain ⟨b, r1⟩ := a
      obtain ⟨hc1, hb⟩ := getBits_clean (by decide) hc hbit
      dsimp only
      rcases hw b hb with ⟨s, hs, hlt⟩ | ⟨j, hj, hrest⟩
      · rw [hs]; exact .inl ⟨_, _, rfl, hlt⟩
      · rw [hj]; exact ih hrest (Nat.le_of_succ_le_succ hfuel) hc1

end

/-- The number of symbols of a format that is read through a tree (R310 to R312). -/
def alphabetSize : Format → Nat
  | .cmdw => 0
  | .hdr => 0
  | .btype => 2
  | .clsym => 20
  | .llsym => 320
  | .dsym => 64

/-- A symbol of its alphabet and extra bits of its width are a token (R314). -/
theorem exists_decodeSym {f : Format} {sym x : Nat} (hsym : sym < alphabetSize f) (hx : x < 2 ^ extraBits f sym) :
    ∃ i, decodeSym f sym x = .ok i := by
  have entry {l : List Instr} {k : Nat} (hk : k < l.length) : ∃ i, l[k]? = some i := ⟨_, List.getElem?_eq_getElem hk⟩
  unfold decodeSym
  rw [if_neg (Nat.not_le.mpr hx)]
  cases f with
  | cmdw => exact ⟨_, rfl⟩
  | hdr => exact ⟨_, rfl⟩
  | btype => exact ⟨_, rfl⟩
  | clsym =>
    obtain ⟨i, hi⟩ := entry (l := clInstrs x) (k := sym) hsym
    exact ⟨i, by simp only [hi]⟩
  | llsym =>
    dsimp only
    split
    · exact ⟨_, rfl⟩
    next hlen =>
      obtain ⟨i, hi⟩ := entry (l := lenInstrs x) (k := sym - 256) (by
        have hsize : (lenInstrs x).length = 64 := rfl
        have hbound : sym < 320 := hsym
        omega)
      exact ⟨i, by simp only [hi]⟩
  | dsym =>
    obtain ⟨i, hi⟩ := entry (l := distInstrs x) (k := sym) hsym
    exact ⟨i, by simp only [hi]⟩

/-- A token's fetch through the tree of a complete code. -/
theorem readToken_raises {mem : Memory} {f : Format} {tree : List Slot} {p : Nat → Bool} {r : Reader} {e : Stop} {lmax : Nat}
    (hw : WalksEnd tree (alphabetSize f) lmax 0) (hmax : lmax ≤ 14) (hc : r.Clean)
    (h : readToken mem f tree p r = .error e) : Raises e := by
  have hcode : (∃ sym r1, getCode mem tree r = .ok (sym, r1) ∧ sym < alphabetSize f) ∨
      ∃ e, getCode mem tree r = .error e ∧ Raises e := getCodeFrom_of_walksEnd hw hmax hc
  obtain ⟨sym, r1, hcode, hsym⟩ | ⟨e', hcode, hraises⟩ := hcode
  · obtain ⟨_, _, hkeeps⟩ := getCodeFrom_keeps hcode
    have hwidth : (if p sym then extraBits f sym else 0) ≤ extraBits f sym := by split <;> omega
    cases hextra : getBits mem (if p sym then extraBits f sym else 0) r1 with
    | error e' =>
      rw [readToken_of_extra_error hcode hextra] at h
      cases h; exact getBits_raises hextra
    | ok a =>
      obtain ⟨x, r2⟩ := a
      have hle := extraBits_le f sym
      obtain ⟨_, hx⟩ := getBits_clean (by omega) (hkeeps hc) hextra
      obtain ⟨i, hdec⟩ := exists_decodeSym hsym (hx.trans_le (Nat.pow_le_pow_right Nat.two_pos hwidth))
      rw [readToken_of hcode hextra hdec] at h
      cases h
  · rw [readToken_of_code_error hcode] at h
    cases h; exact hraises

/-! Instructions in the decoder state of their format. -/

section
variable {s : State}

theorem storedBlockWork_answers (s : State) : ∃ t, s.storedBlockWork = .next t := by
  unfold State.storedBlockWork
  split
  next hextra => exact stopWith_of_raises (getBits_raises hextra) s
  · split
    next halign => exact stopWith_of_raises (alignReader_raises halign) s
    · dsimp only
      split
      next hbytes => exact stopWith_of_raises (storedBytes_raises hbytes) s
      · exact ⟨_, rfl⟩

theorem compressedBlockWork_answers (s : State) : ∃ t, s.compressedBlockWork = .next t := by
  unfold State.compressedBlockWork
  split
  next hlens => exact stopWith_of_raises (readLengths3_raises hlens) s
  · split
    · exact ⟨_, rfl⟩
    · split
      next hcount => exact stopWith_of_raises (getBits_raises hcount) s
      · exact ⟨_, rfl⟩

theorem endLiteralLens_answers (s : State) (count : Nat) : ∃ t, s.endLiteralLens count = .next t := by
  unfold State.endLiteralLens
  dsimp only
  split
  · exact ⟨_, rfl⟩
  · split
    next hcount => exact stopWith_of_raises (getBits_raises hcount) s
    · exact ⟨_, rfl⟩

theorem endDistanceLens_answers (s : State) (count : Nat) : ∃ t, s.endDistanceLens count = .next t := by
  unfold State.endDistanceLens
  dsimp only
  split <;> exact ⟨_, rfl⟩

theorem codeLength_answers {q : RleSeq} {count j : Nat} (hp : s.phase = .rle q count j) (t x : Nat) :
    ∃ u, s.codeLength t x = .next u := by
  cases happly : applyCodeLength t x count j (s.dec.lensFor q) with
  | none => exact ⟨_, codeLength_rejected hp happly⟩
  | some a =>
    obtain ⟨lens, k⟩ := a
    rw [codeLength_accepted hp happly]
    rcases Nat.lt_or_ge k count with hinside | hend
    · exact ⟨_, nextCodeLength_inside hinside⟩
    · cases q with
      | literal => rw [nextCodeLength_literal hend]; exact endLiteralLens_answers _ _
      | distance => rw [nextCodeLength_distance hend]; exact endDistanceLens_answers _ _

theorem atStart_of_start (hp : s.phase = .start) (f : State → State) : s.atStart f = .next (f s) := by
  simp only [State.atStart, hp]

theorem exec_command_answers {i : Instr} (hfmt : (encode i).fmt = .cmdw) (hp : s.phase = .start) :
    ∃ t, exec i s = .next t := by
  cases i with
  | nop => exact ⟨_, atStart_of_start hp fun t => t.complete 0 false false⟩
  | compress level => exact ⟨_, atStart_of_start hp fun t => t.compressWork level⟩
  | decompress => exact ⟨_, atStart_of_start hp State.decompressWork⟩
  | getLength => exact ⟨_, atStart_of_start hp State.getLengthWork⟩
  | measure level => exact ⟨_, atStart_of_start hp fun t => t.measureWork level⟩
  | reservedOp5 | reservedOp6 | reservedOp7 => exact ⟨_, atStart_of_start hp fun t => t.raiseError .illegalCommand 0⟩
  | _ => cases hfmt

theorem exec_header_answers {i : Instr} (hfmt : (encode i).fmt = .hdr) (hp : s.phase = .header) :
    ∃ t, exec i s = .next t := by
  cases i with
  | hdrStoredEmpty => exact ⟨_, exec_hdrStoredEmpty hp⟩
  | hdrStored h => exact ⟨_, exec_hdrStored hp h⟩
  | hdrHuffman h => exact ⟨_, exec_hdrHuffman hp h⟩
  | _ => cases hfmt

theorem exec_block_answers {i : Instr} (hfmt : (encode i).fmt = .btype) (hp : s.phase = .block) :
    ∃ t, exec i s = .next t := by
  cases i with
  | storedBlock => exact exec_storedBlock hp ▸ storedBlockWork_answers s
  | compressedBlock => exact exec_compressedBlock hp ▸ compressedBlockWork_answers s
  | _ => cases hfmt

theorem exec_codeLength_answers {i : Instr} {q : RleSeq} {count j : Nat} (hfmt : (encode i).fmt = .clsym)
    (hp : s.phase = .rle q count j) : ∃ t, exec i s = .next t :=
  exec_of_clsym hfmt s ▸ codeLength_answers hp _ _

theorem exec_symbol_answers {i : Instr} (hfmt : (encode i).fmt = .llsym) (hp : s.phase = .symbol) :
    ∃ t, exec i s = .next t := by
  rcases exec_of_llsym hfmt s with ⟨b, rfl⟩ | ⟨_, h⟩
  · exact ⟨_, exec_lit hp b⟩
  · exact ⟨_, h.trans (lengthToken_of_symbol hp _ _)⟩

theorem exec_distance_answers {i : Instr} {len : Nat} (hfmt : (encode i).fmt = .dsym) (hp : s.phase = .dist len) :
    ∃ t, exec i s = .next t :=
  ⟨_, (exec_of_dsym hfmt s).trans (distanceToken_of_dist hp _ _)⟩

end

/-! The engine's turn. -/

theorem decodeSym_cmdw (w : Word) : decodeSym .cmdw w.toNat 0 = .ok (decodeCommand w) := by
  simp [decodeSym, extraBits]

theorem fmt_of_readToken {mem : Memory} {f : Format} {tree : List Slot} {p : Nat → Bool} {r r' : Reader} {i : Instr}
    (h : readToken mem f tree p r = .ok (i, r')) : (encode i).fmt = f := by
  obtain ⟨_, _, _, _, _, hdec, _⟩ := readToken_ok h
  exact fmt_of_decodeSym hdec

theorem fmt_of_readBlockType {mem : Memory} {r r' : Reader} {i : Instr} (h : readBlockType mem r = .ok (i, r')) :
    (encode i).fmt = .btype := by
  unfold readBlockType at h
  split at h
  · cases h
  · split at h
    next hdec => cases h; exact fmt_of_decodeSym hdec
    · cases h

/-- A fetch from the stream, where a token's instruction answers and a stop is an error. -/
theorem engineStep_of_fetched {s : State} {token : Except Stop (Instr × Reader)} (hfetch : fetch s = fetched s token)
    (hrun : ∀ i r, token = .ok (i, r) → ∃ t, exec i { s with rd := r } = .next t)
    (hstop : ∀ e, token = .error e → Raises e) : ∃ t, engineStep s = .next t := by
  cases htoken : token with
  | ok a =>
    obtain ⟨i, r⟩ := a
    rw [engineStep_of_token hfetch htoken]
    exact hrun i r htoken
  | error e =>
    rw [engineStep, hfetch, htoken]
    exact stopWith_of_raises (hstop e htoken) s

/-- A token read through a tree of a complete code of its alphabet. -/
theorem engineStep_of_tree {s : State} {f : Format} {tree : List Slot} {p : Nat → Bool} {lmax : Nat} (hc : s.rd.Clean)
    (hfetch : fetch s = fetched s (readToken s.mem f tree p s.rd)) (htree : BuiltFrom (alphabetSize f) lmax tree)
    (hmin : 1 ≤ lmax) (hmax : lmax ≤ 14)
    (hrun : ∀ i r, (encode i).fmt = f → ∃ t, exec i { s with rd := r } = .next t) : ∃ t, engineStep s = .next t := by
  have hsize : alphabetSize f ≤ 512 := by cases f <;> decide
  have hw := walksEnd_of_builtFrom htree hsize hmin
  exact engineStep_of_fetched hfetch (fun i r h => hrun i r (fmt_of_readToken h)) fun e => readToken_raises hw hmax hc

theorem engineStep_answers {s : State} (h : s.DecodeInv) : ∃ t, engineStep s = .next t := by
  obtain ⟨htrees, ⟨_, _, hc⟩⟩ := (decodeInv_iff s).mp h
  cases hp : s.phase with
  | idle => exact ⟨s, by rw [engineStep, fetch_of_idle hp]⟩
  | start =>
    rw [engineStep_of_run (fetch_of_start hp)]
    exact exec_command_answers (fmt_of_decodeSym (decodeSym_cmdw _)) hp
  | header =>
    rw [engineStep_of_run (fetch_of_header hp)]
    exact exec_header_answers (fmt_of_decodeSym (decodeSym_hdr _)) hp
  | block =>
    exact engineStep_of_fetched (fetch_of_block hp) (fun i r h => exec_block_answers (fmt_of_readBlockType h) hp)
      fun e => readBlockType_raises
  | rle q count j =>
    have hcl : BuiltFrom 20 7 s.dec.clTree := by
      cases q with
      | literal => obtain ⟨hcl, _⟩ := (treesBuilt_literal hp).mp htrees; exact hcl
      | distance => obtain ⟨hcl, _⟩ := (treesBuilt_distance hp).mp htrees; exact hcl
    exact engineStep_of_tree (f := .clsym) hc (fetch_of_rle hp) hcl (by decide) (by decide)
      fun i r hfmt => exec_codeLength_answers hfmt hp
  | symbol =>
    obtain ⟨hlit, _⟩ := dataTrees_of_phase htrees (.inl hp)
    exact engineStep_of_tree (f := .llsym) hc (fetch_of_symbol hp) hlit (by decide) (by decide)
      fun i r hfmt => exec_symbol_answers hfmt hp
  | dist len =>
    obtain ⟨_, hdist⟩ := dataTrees_of_phase htrees (.inr ⟨len, hp⟩)
    exact engineStep_of_tree (f := .dsym) hc (fetch_of_dist hp) hdist (by decide) (by decide)
      fun i r hfmt => exec_distance_answers hfmt hp

/-- Settles O7: the engine's turn is its instruction, and a tick is one access, which always answers, or that instruction. -/
theorem engineNeverStops : Obligations.EngineNeverStops := by
  unfold Obligations.EngineNeverStops
  intro s h turn
  have whole : ∃ t, engineStep s.taken = .next t :=
    engineStep_answers (s := s.taken) (decodeInv_of_frame h rfl rfl rfl)
  rcases turn with turn | turn
  · rwa [step_of_engineTurn turn]
  · rcases step_of_tickTurn turn with ⟨a, _, _, hs⟩ | ⟨_, hs⟩
    · exact ⟨_, hs⟩
    · rwa [hs]

end Sys2Proof.Proofs

/-! PROOFS. Reset and the `CMD` register (70_reset_and_hazards.md R950 to R953, 49_host_commands.md R800, R811): a reset restores
the register block, a write to `CMD` starts a command or only sets `OVERRUN`, and the engine changes no register that is the
host's. -/

namespace Sys2Proof.Proofs

open Sys2Proof Sys2Proof.Machine Sys2Proof.Laws

/-! Reset. -/

theorem step_reset {s : State} {rest : List Input} (h : s.inputs = .reset :: rest) :
    step s = .next (State.resetNow { s with inputs := rest }) := by
  unfold step; rw [h]; rfl

@[simp] theorem resetNow_regs (s : State) : s.resetNow.regs = Regs.reset := rfl
@[simp] theorem resetNow_phase (s : State) : s.resetNow.phase = .idle := rfl
@[simp] theorem resetNow_inputs (s : State) : s.resetNow.inputs = s.inputs := rfl

/-- After reset `ID` is the one register that does not read 0 (R105, R951). -/
theorem readAt_reset (offset : Nat) : Regs.reset.readAt offset = if offset = 0 then 0x4A534331 else 0 := by
  by_cases h0 : offset = 0
  · subst h0; rfl
  · have packed : Regs.reset.cmdWord = 0 ∧ Regs.reset.statusWord = 0 ∧ Regs.reset.errcode.zeroExtend 32 = 0 ∧
        Regs.reset.resultInfoWord = 0 ∧ Regs.reset.irqEnWord = 0 := by decide
    have plain : Regs.reset.srcAddr = 0 ∧ Regs.reset.srcLen = 0 ∧ Regs.reset.dstAddr = 0 ∧ Regs.reset.dstCap = 0 ∧
        Regs.reset.resultLen = 0 ∧ Regs.reset.errOffset = 0 := ⟨rfl, rfl, rfl, rfl, rfl, rfl⟩
    simp only [Regs.readAt, if_neg h0, packed, plain, ite_self]

/-- Only the destination of a command that writes one is at risk (R952). -/
theorem resetNow_mem_of_safe {s : State} (h : s.dstAtRisk = false) : s.resetNow.mem = s.mem := by
  simp only [State.resetNow, h, Bool.false_eq_true, if_false]

theorem resetNow_sameOutside (s : State) : SameOutside s.mem s.resetNow.mem s.lat.dst s.lat.cap := by
  cases h : s.dstAtRisk with
  | false => rw [resetNow_mem_of_safe h]; exact sameOutside_refl _ _ _
  | true =>
    have hm : s.resetNow.mem = s.forgetDst.mem := by simp only [State.resetNow, h, if_true]
    rw [hm]; exact forgetDst_sameOutside s

theorem dstAtRisk_eq_false {s : State} (h : s.regs.busy = false ∨ (s.lat.op ≠ 1 ∧ s.lat.op ≠ 2)) :
    s.dstAtRisk = false := by
  unfold State.dstAtRisk
  rcases h with h | ⟨h1, h2⟩
  · rw [h]; rfl
  · have hw : writesDst s.lat.op = false := decide_eq_false (not_or.mpr ⟨h1, h2⟩)
    rw [hw, Bool.and_false]

/-- Settles O1: a reset step answers `State.resetNow`. -/
theorem resetStepRestoresRegisterBlock : Obligations.ResetStepRestoresRegisterBlock := by
  unfold Obligations.ResetStepRestoresRegisterBlock
  intro s rest h
  refine ⟨_, step_reset h, rfl, readAt_reset, rfl, rfl, rfl, fun hsafe => ?_, ?_⟩
  · exact resetNow_mem_of_safe (s := { s with inputs := rest }) (dstAtRisk_eq_false (s := { s with inputs := rest }) hsafe)
  · exact resetNow_sameOutside { s with inputs := rest }

/-! Writes to `CMD`. -/

theorem step_cmdWrite {s : State} {rest : List Input} {v : Word} (h : s.inputs = .regWrite 32 0x04 v :: rest) :
    step s = .next (State.writeCmd { s with inputs := rest } v) := by
  simp only [step, h, hostRegWrite, (regAccessDefined_iff 32 0x04).mpr ⟨rfl, by decide, by decide⟩, if_true]

theorem writeCmd_of_idle {s : State} (h : s.regs.busy = false) (v : Word) : s.writeCmd v = s.startCommand v := by
  unfold State.writeCmd; rw [h]; rfl

theorem writeCmd_of_busy {s : State} (h : s.regs.busy = true) (v : Word) :
    s.writeCmd v = { s with regs := s.regs.flagsAtOverrun } := by
  unfold State.writeCmd; rw [h]; rfl

/-- A write to `CMD` while idle starts a command (R800). -/
theorem step_cmdWrite_of_idle {s : State} {rest : List Input} {v : Word} (h : s.inputs = .regWrite 32 0x04 v :: rest)
    (hb : s.regs.busy = false) : step s = .next (State.startCommand { s with inputs := rest } v) := by
  rw [step_cmdWrite h, writeCmd_of_idle (s := { s with inputs := rest }) hb]

/-- Settles O12: the next state is `State.startCommand`, field by field. -/
theorem commandWriteLatchesAndStarts : Obligations.CommandWriteLatchesAndStarts := by
  unfold Obligations.CommandWriteLatchesAndStarts
  intro s rest v h hb
  rw [step_cmdWrite_of_idle h hb]
  rfl

/-! The registers that are the host's (R953). -/

/-- The operands, `IRQ_EN` and `OVERRUN` are the same. -/
structure HostRegsKept (r r' : Regs) : Prop where
  srcAddr : r'.srcAddr = r.srcAddr
  srcLen : r'.srcLen = r.srcLen
  dstAddr : r'.dstAddr = r.dstAddr
  dstCap : r'.dstCap = r.dstCap
  doneIe : r'.doneIe = r.doneIe
  errIe : r'.errIe = r.errIe
  overrun : r'.overrun = r.overrun

theorem HostRegsKept.refl (r : Regs) : HostRegsKept r r := ⟨rfl, rfl, rfl, rfl, rfl, rfl, rfl⟩

theorem HostRegsKept.of_eq {r r' : Regs} (h : r' = r) : HostRegsKept r r' := h ▸ .refl r

theorem endSpoiled_regs (s : State) : s.endSpoiled.regs = s.regs.flagsAtSpoiledEnd (s.loseDst.fresh + 1) := by
  simp only [State.endSpoiled, loseDst_regs]

theorem raiseError_regs {s : State} (h : s.tainted = false) (e : ErrCode) (info : Word) :
    (s.raiseError e info).regs = s.regs.flagsAtError e info := by
  simp only [State.raiseError, h, Bool.false_eq_true, if_false, loseDst_regs]

theorem endSpoiled_hostRegs (s : State) : HostRegsKept s.regs s.endSpoiled.regs := by
  rw [endSpoiled_regs]
  exact ⟨rfl, rfl, rfl, rfl, rfl, rfl, rfl⟩

theorem raiseError_hostRegs (s : State) (e : ErrCode) (info : Word) : HostRegsKept s.regs (s.raiseError e info).regs := by
  cases h : s.tainted with
  | true =>
    have he : s.raiseError e info = s.endSpoiled := if_pos h
    rw [he]; exact endSpoiled_hostRegs s
  | false =>
    rw [raiseError_regs h]
    exact ⟨rfl, rfl, rfl, rfl, rfl, rfl, rfl⟩

theorem complete_hostRegs (s : State) (len : Word) (a b : Bool) : HostRegsKept s.regs (s.complete len a b).regs := by
  unfold State.complete
  split
  · exact endSpoiled_hostRegs s
  · exact ⟨rfl, rfl, rfl, rfl, rfl, rfl, rfl⟩

theorem InstrEnd.hostRegs {s t : State} (h : InstrEnd s t) : HostRegsKept s.regs t.regs := by
  cases h with
  | goesOn h _ => exact .of_eq h.regs
  | raised h e info => rw [← h.regs]; exact raiseError_hostRegs _ e info
  | completed h len a b => rw [← h.regs]; exact complete_hostRegs _ len a b

theorem engineStep_hostRegs {s t : State} (h : engineStep s = .next t) : HostRegsKept s.regs t.regs := by
  rcases engineStep_end h with ⟨_, rfl⟩ | ⟨_, he⟩
  · exact .refl _
  · exact he.hostRegs

/-- A step that is neither a reset nor a register write keeps the host's registers. -/
theorem StepOf.hostRegs {s t : State} (h : StepOf s t) :
    HostRegsKept s.regs t.regs ∨ (∃ rest, s.inputs = .reset :: rest) ∨
      (∃ w v rest, s.inputs = .regWrite w 0x04 v :: rest ∧ t = s.entryTaken.writeCmd v) ∨
      ∃ w o v rest, s.inputs = .regWrite w o v :: rest ∧ t.regs = s.regs.writeAt o v := by
  cases h with
  | engine _ h => exact .inl (engineStep_hostRegs (s := s.taken) h)
  | access _ _ => exact .inl (.refl _)
  | reset h => exact .inr (.inl ⟨_, h⟩)
  | regRead _ => exact .inl (.refl _)
  | cmdWrite h => exact .inr (.inr (.inl ⟨_, _, _, h, rfl⟩))
  | regWrite h _ => exact .inr (.inr (.inr ⟨_, _, _, _, h, rfl⟩))
  | memRead _ _ _ => exact .inl (.refl _)
  | memWrite _ => exact .inl (.refl _)

theorem writeCmd_overrun {s : State} (h : s.regs.overrun = true) (v : Word) : (s.writeCmd v).regs.overrun = true := by
  unfold State.writeCmd
  split
  · rfl
  · exact h

/-- The one register write that clears `OVERRUN` is that of bit 3 of `STATUS` (R814). -/
theorem writeAt_overrun (r : Regs) (offset : Nat) (v : Word) (h : r.overrun = true) :
    (r.writeAt offset v).overrun = true ∨ (offset = 0x08 ∧ v.getLsbD 3 = true) := by
  by_cases ho : offset = 0x08
  · subst ho
    cases hv : v.getLsbD 3 with
    | true => exact .inr ⟨rfl, rfl⟩
    | false =>
      have hw : r.writeAt 0x08 v = r.clearW1C v := rfl
      rw [hw, clearW1C_overrun, h, hv]
      exact .inl rfl
  · refine .inl ?_
    unfold Regs.writeAt
    rw [if_neg ho]
    split_ifs <;> exact h

/-- A register access that answers has the width 32 (R104). -/
theorem width_of_regWrite {s t : State} {w o : Nat} {v : Word} {rest : List Input} (h : s.inputs = .regWrite w o v :: rest)
    (hs : step s = .next t) : w = 32 := by
  have he : step s = hostRegWrite w o v { s with inputs := rest } := by simp only [step, h]
  obtain ⟨hd, _⟩ := hostRegWrite_next (he.symm.trans hs)
  exact ((regAccessDefined_iff w o).mp hd).1

/-- Settles O13: a write to `CMD` while busy is `Regs.flagsAtOverrun`, and every other step is looked at by who acts. -/
theorem commandWriteWhileBusyOverruns : Obligations.CommandWriteWhileBusyOverruns := by
  unfold Obligations.CommandWriteWhileBusyOverruns
  refine ⟨fun s rest v h hb => ?_, fun s t ho hs => ?_⟩
  · rw [step_cmdWrite h, writeCmd_of_busy (s := { s with inputs := rest }) hb]
    rfl
  · rcases (step_next_cases hs).hostRegs with hk | hr | ⟨w, v, rest, _, rfl⟩ | ⟨w, o, v, rest, hi, ht⟩
    · exact .inl (hk.overrun.trans ho)
    · exact .inr (.inl hr)
    · exact .inl (writeCmd_overrun (s := s.entryTaken) ho v)
    · rw [ht]
      rcases writeAt_overrun s.regs o v ho with h | ⟨rfl, hv⟩
      · exact .inl h
      · obtain rfl := width_of_regWrite hi hs
        exact .inr (.inr ⟨rest, v, hi, hv⟩)

/-- Settles O14: the steps that are no reset and no register write keep the host's registers; after a reset `BUSY` is 0. -/
theorem onlyHostOrResetChangesOperands : Obligations.OnlyHostOrResetChangesOperands := by
  unfold Obligations.OnlyHostOrResetChangesOperands
  refine ⟨fun s t hs hreset hwrite => ?_, fun s rest v h => ?_⟩
  · rcases (step_next_cases hs).hostRegs with hk | ⟨rest, hr⟩ | ⟨w, v, rest, hi, _⟩ | ⟨w, o, v, rest, hi, _⟩
    · exact ⟨hk.srcAddr, hk.srcLen, hk.dstAddr, hk.dstCap, hk.doneIe, hk.errIe, hk.overrun⟩
    · exact absurd hr (hreset rest)
    · exact absurd hi (hwrite w 4 v rest)
    · exact absurd hi (hwrite w o v rest)
  · exact ⟨_, _, step_reset h, step_cmdWrite_of_idle rfl rfl, rfl, rfl, rfl⟩

/-! Ends of a command (R813, R904, R906). -/

/-- The registers at the end of a command that ran with the registers `r`: one outcome, and, unless the host spoiled the
command, the results of that outcome. -/
structure EndRegs (spoiled : Bool) (r r' : Regs) : Prop where
  busy : r'.busy = false
  oneOutcome : r'.err = !r'.done
  doneIe : r'.doneIe = r.doneIe
  errIe : r'.errIe = r.errIe
  ofDone : spoiled = false → r'.done = true → r'.errcode = r.errcode ∧ r'.errOffset = r.errOffset
  ofErr : spoiled = false → r'.done = false →
    r'.errcode ≠ 0 ∧ r'.resultLen = 0 ∧ r'.form = false ∧ r'.fallback = false

theorem code_ne_zero (e : ErrCode) : e.code ≠ 0 := by
  cases e <;> decide

theorem endSpoiled_endRegs {s : State} (h : s.tainted = true) : EndRegs s.tainted s.regs s.endSpoiled.regs := by
  have hk := endSpoiled_hostRegs s
  refine ⟨rfl, rfl, hk.doneIe, hk.errIe, fun hc => ?_, fun hc => ?_⟩ <;> (rw [h] at hc; cases hc)

theorem raiseError_endRegs (s : State) (e : ErrCode) (info : Word) :
    EndRegs s.tainted s.regs (s.raiseError e info).regs := by
  cases h : s.tainted with
  | true =>
    have he : s.raiseError e info = s.endSpoiled := if_pos h
    rw [he, ← h]; exact endSpoiled_endRegs h
  | false =>
    rw [raiseError_regs h]
    exact ⟨rfl, rfl, rfl, rfl, fun _ hd => (by cases hd), fun _ _ => ⟨code_ne_zero e, rfl, rfl, rfl⟩⟩

theorem complete_endRegs {s : State} (herr : s.regs.err = false) (len : Word) (a b : Bool) :
    EndRegs s.tainted s.regs (s.complete len a b).regs := by
  cases h : s.tainted with
  | true =>
    have he : s.complete len a b = s.endSpoiled := if_pos h
    rw [he, ← h]; exact endSpoiled_endRegs h
  | false =>
    have hr : (s.complete len a b).regs = s.regs.flagsAtDone len a b := by rw [complete_of_untainted h]; rfl
    rw [hr]
    exact ⟨rfl, herr, rfl, rfl, fun _ _ => ⟨rfl, rfl⟩, fun _ hd => (by cases hd)⟩

/-- An instruction of a busy engine goes on with the same registers, or ends its command. -/
theorem InstrEnd.outcome {s t : State} (h : InstrEnd s t) (ht : t.tainted = s.tainted) (herr : s.regs.err = false) :
    (t.regs = s.regs ∧ t.phase ≠ .idle) ∨ (EndRegs s.tainted s.regs t.regs ∧ t.phase = .idle) := by
  cases h with
  | goesOn h hp => exact .inl ⟨h.regs, hp⟩
  | @raised u h e info =>
    have hend := raiseError_endRegs u e info
    rw [← raiseError_tainted u e info, ht, h.regs] at hend
    exact .inr ⟨hend, by simp⟩
  | @completed u h len a b =>
    have hend := complete_endRegs (s := u) (by rw [h.regs, herr]) len a b
    rw [← complete_tainted u len a b, ht, h.regs] at hend
    exact .inr ⟨hend, by simp⟩

theorem engineStep_tainted {s t : State} (h : engineStep s = .next t) : t.tainted = s.tainted := by
  rcases engineStep_cases h with ⟨_, rfl⟩ | ⟨i, _, _, he⟩ | ⟨i, _, _, he⟩ | ⟨i, r, _, _, he⟩ | ⟨q, c, j, i, r, _, _, he⟩ |
    ⟨i, r, _, _, he⟩ | ⟨len, i, r, _, _, he⟩ | ⟨e, info, _, _, _, rfl⟩
  · rfl
  · exact exec_tainted he
  · exact exec_tainted he
  · exact (exec_tainted he).trans rfl
  · exact (exec_tainted he).trans rfl
  · exact (exec_tainted he).trans rfl
  · exact (exec_tainted he).trans rfl
  · exact raiseError_tainted s e info

theorem irq_of_busy {s : State} (hi : s.Inv) (hb : s.regs.busy = true) : irq s = false := by
  obtain ⟨_, hbusy, _⟩ := hi
  obtain ⟨hd, he, _⟩ := hbusy hb
  simp [irq, hd, he]

/-- A whole instruction of the busy engine (R813, R904). -/
theorem engineStep_outcome {s t : State} (hi : s.Inv) (hb : s.regs.busy = true) (h : engineStep s = .next t) :
    (t.regs = s.regs ∧ t.phase ≠ .idle) ∨ (EndRegs s.tainted s.regs t.regs ∧ t.phase = .idle) := by
  obtain ⟨_, hbusy, _, hidle, _⟩ := hi
  rcases engineStep_end h with ⟨hp, _⟩ | ⟨_, hend⟩
  · rw [hidle.mp hp] at hb; cases hb
  · exact hend.outcome (engineStep_tainted h) (hbusy hb).2.1

/-- A turn or a tick of the busy engine goes on with the same registers, or ends its command. -/
theorem step_outcome {s t : State} (hi : s.Inv) (hb : s.regs.busy = true) (hturn : s.engineTurn ∨ s.tickTurn)
    (h : step s = .next t) :
    t.regs = s.regs ∨ (EndRegs s.tainted s.regs t.regs ∧ t.phase = .idle) := by
  have whole : step s = engineStep s.taken → t.regs = s.regs ∨ (EndRegs s.tainted s.regs t.regs ∧ t.phase = .idle) :=
    fun hs => (engineStep_outcome (s := s.taken) (inv_of_frame hi hi.1 rfl rfl) hb (hs.symm.trans h)).imp And.left id
  rcases hturn with hturn | hturn
  · exact whole (step_of_engineTurn hturn)
  · rcases step_of_tickTurn hturn with ⟨a, _, _, hs⟩ | ⟨_, hs⟩
    · rw [hs] at h; cases h; exact .inl rfl
    · exact whole hs

/-- Settles O15: the three ways in which an instruction ends, and what each leaves in the registers. -/
theorem commandEndsWithOneOutcome : Obligations.CommandEndsWithOneOutcome := by
  unfold Obligations.CommandEndsWithOneOutcome
  intro s t hi hb hturn h
  have hbusy := hi.2.1 hb
  obtain ⟨_, _, hcode, hoff, _⟩ := hbusy
  refine ⟨irq_of_busy hi hb, fun htb => ?_, fun htb => ?_⟩
  · rcases step_outcome hi hb hturn h with hr | ⟨hend, _⟩
    · exact hr
    · rw [hend.busy] at htb; cases htb
  · rcases step_outcome hi hb hturn h with hr | ⟨hend, hp⟩
    · rw [hr, hb] at htb; cases htb
    · refine ⟨hp, hend.oneOutcome, ?_, fun hc hd => ?_, hend.ofErr⟩
      · rw [irq, hend.oneOutcome, hend.doneIe, hend.errIe]
      · obtain ⟨h1, h2⟩ := hend.ofDone hc hd
        exact ⟨h1.trans hcode, h2.trans hoff⟩

end Sys2Proof.Proofs

/-! PROOFS. The start checks and the commands (49_host_commands.md R800 to R813): the checks in their order, and the ends of
`NOP`, the reserved commands, `GET_LENGTH`, `COMPRESS` and `MEASURE`, and the way of `DECOMPRESS` to its header. -/

namespace Sys2Proof.Proofs

open Sys2Proof Sys2Proof.Machine Sys2Proof.Laws

/-! Commands at their start (R800 step 5). -/

section AtStart

variable {s : State} (hp : s.phase = .start)

include hp

theorem exec_nop : exec .nop s = .next (s.complete 0 false false) :=
  atStart_of_start hp fun t => t.complete 0 false false

theorem exec_compress (l : Level) : exec (.compress l) s = .next (s.compressWork l) :=
  atStart_of_start hp fun t => t.compressWork l

theorem exec_decompress : exec .decompress s = .next s.decompressWork := atStart_of_start hp _

theorem exec_getLength : exec .getLength s = .next s.getLengthWork := atStart_of_start hp _

theorem exec_measure (l : Level) : exec (.measure l) s = .next (s.measureWork l) :=
  atStart_of_start hp fun t => t.measureWork l

theorem exec_reserved {i : Instr} (hi : i ∈ [Instr.reservedOp5, Instr.reservedOp6, Instr.reservedOp7]) :
    exec i s = .next (s.raiseError .illegalCommand 0) := by
  simp only [List.mem_cons, List.not_mem_nil, or_false] at hi
  rcases hi with rfl | rfl | rfl <;> exact atStart_of_start hp fun t => t.raiseError .illegalCommand 0

end AtStart

/-! The start checks (R801). -/

theorem rangesBad_iff (l : Latched) :
    l.rangesBad = true ↔ BadRanges l.src.toNat l.n.toNat l.dst.toNat l.cap.toNat := by
  simp only [Latched.rangesBad, rangeWraps, rangesMeet, BadRanges, Bool.or_eq_true, decide_eq_true_eq, or_assoc]

theorem rangesBad_eq_false {l : Latched} (h : ¬BadRanges l.src.toNat l.n.toNat l.dst.toNat l.cap.toNat) :
    l.rangesBad = false := by
  rw [← Bool.not_eq_true, rangesBad_iff]; exact h

theorem srcWraps_iff (l : Latched) : l.srcWraps = true ↔ 2 ^ 32 < l.src.toNat + l.n.toNat := by
  simp only [Latched.srcWraps, rangeWraps, decide_eq_true_eq]

theorem src_eq_zero_iff (l : Latched) : l.src = 0 ↔ l.src.toNat = 0 := BitVec.toNat_eq

theorem not_maxInput_lt {n : Nat} (hn : n ≤ 2147483647) : ¬ Config.maxInput < n := Nat.not_lt.mpr hn

section Checks

variable {l : Latched}

theorem checkCompress_of_null (h : l.src = 0) : l.checkCompress = some .nullInput := if_pos h

theorem checkDecompress_of_null (h : l.src = 0) : l.checkDecompress = some .nullInput := if_pos h

theorem checkGetLength_of_null (h : l.src = 0) : l.checkGetLength = some .nullInput := if_pos h

theorem checkMeasure_of_null (h : l.src = 0) : l.checkMeasure = some .nullInput := if_pos h

variable (h0 : l.src ≠ 0)

include h0

theorem checkCompress_of_large (hn : 2147483647 < l.n.toNat) : l.checkCompress = some .inputTooLarge := by
  rw [Latched.checkCompress, if_neg h0]; exact if_pos hn

theorem checkMeasure_of_large (hn : 2147483647 < l.n.toNat) : l.checkMeasure = some .inputTooLarge := by
  rw [Latched.checkMeasure, if_neg h0]; exact if_pos hn

theorem checkCompress_of_bad (hn : l.n.toNat ≤ 2147483647) (hbad : l.rangesBad = true) :
    l.checkCompress = some .badRange := by
  rw [Latched.checkCompress, if_neg h0, if_neg (not_maxInput_lt hn), if_pos hbad]

theorem checkMeasure_of_bad (hn : l.n.toNat ≤ 2147483647) (hbad : l.srcWraps = true) :
    l.checkMeasure = some .badRange := by
  rw [Latched.checkMeasure, if_neg h0, if_neg (not_maxInput_lt hn), if_pos hbad]

theorem checkDecompress_of_bad (hbad : l.rangesBad = true) : l.checkDecompress = some .badRange := by
  rw [Latched.checkDecompress, if_neg h0, if_pos hbad]

theorem checkGetLength_of_bad (hbad : l.srcWraps = true) : l.checkGetLength = some .badRange := by
  rw [Latched.checkGetLength, if_neg h0, if_pos hbad]

theorem checkCompress_of_small (hn : l.n.toNat ≤ 2147483647) (hbad : l.rangesBad = false)
    (hcap : l.cap.toNat < l.n.toNat + 4) : l.checkCompress = some .insufficientDestination := by
  rw [Latched.checkCompress, if_neg h0, if_neg (not_maxInput_lt hn), hbad]; exact if_pos hcap

theorem checkDecompress_of_short (hbad : l.rangesBad = false) (hn : l.n.toNat < 4) :
    l.checkDecompress = some .truncatedInput := by
  rw [Latched.checkDecompress, if_neg h0, hbad]; exact if_pos hn

theorem checkGetLength_of_short (hbad : l.srcWraps = false) (hn : l.n.toNat < 4) :
    l.checkGetLength = some .truncatedInput := by
  rw [Latched.checkGetLength, if_neg h0, hbad]; exact if_pos hn

theorem checkCompress_eq_none (hn : l.n.toNat ≤ 2147483647) (hbad : l.rangesBad = false)
    (hcap : l.n.toNat + 4 ≤ l.cap.toNat) : l.checkCompress = none := by
  rw [Latched.checkCompress, if_neg h0, if_neg (not_maxInput_lt hn), hbad]; exact if_neg (Nat.not_lt.mpr hcap)

theorem checkDecompress_eq_none (hbad : l.rangesBad = false) (hn : 4 ≤ l.n.toNat) : l.checkDecompress = none := by
  rw [Latched.checkDecompress, if_neg h0, hbad]; exact if_neg (Nat.not_lt.mpr hn)

theorem checkGetLength_eq_none (hbad : l.srcWraps = false) (hn : 4 ≤ l.n.toNat) : l.checkGetLength = none := by
  rw [Latched.checkGetLength, if_neg h0, hbad]; exact if_neg (Nat.not_lt.mpr hn)

theorem checkMeasure_eq_none (hn : l.n.toNat ≤ 2147483647) (hbad : l.srcWraps = false) : l.checkMeasure = none := by
  rw [Latched.checkMeasure, if_neg h0, if_neg (not_maxInput_lt hn), hbad]; rfl

end Checks

theorem srcWraps_eq_false {l : Latched} (h : l.src.toNat + l.n.toNat ≤ 2 ^ 32) : l.srcWraps = false := by
  rw [← Bool.not_eq_true, srcWraps_iff]; omega

/-! A failed check ends the command. -/

section FailedCheck

variable {s : State} {e : ErrCode}

theorem compressWork_of_check (h : s.lat.checkCompress = some e) (l : Level) : s.compressWork l = s.raiseError e 0 := by
  unfold State.compressWork; rw [h]

theorem decompressWork_of_check (h : s.lat.checkDecompress = some e) : s.decompressWork = s.raiseError e 0 := by
  unfold State.decompressWork; rw [h]

theorem getLengthWork_of_check (h : s.lat.checkGetLength = some e) : s.getLengthWork = s.raiseError e 0 := by
  unfold State.getLengthWork; rw [h]

theorem measureWork_of_check (h : s.lat.checkMeasure = some e) (l : Level) : s.measureWork l = s.raiseError e 0 := by
  unfold State.measureWork; rw [h]

theorem exec_compress_raises (hp : s.phase = .start) (hc : s.tainted = false) (h : s.lat.checkCompress = some e) (l : Level) :
    ∃ t, exec (.compress l) s = .next t ∧ s.ErredAny t e.code 0 :=
  ⟨_, (exec_compress hp l).trans (congrArg _ (compressWork_of_check h l)), raiseError_erredAny hc e 0⟩

theorem exec_decompress_raises (hp : s.phase = .start) (hc : s.tainted = false) (h : s.lat.checkDecompress = some e) :
    ∃ t, exec .decompress s = .next t ∧ s.ErredAny t e.code 0 :=
  ⟨_, (exec_decompress hp).trans (congrArg _ (decompressWork_of_check h)), raiseError_erredAny hc e 0⟩

theorem exec_getLength_raises (hp : s.phase = .start) (hc : s.tainted = false) (hop : s.lat.op = 3)
    (h : s.lat.checkGetLength = some e) : exec .getLength s = .next (s.erredWith e.code 0) := by
  rw [exec_getLength hp, getLengthWork_of_check h, raiseError_of_noDst hc (by rw [hop]; rfl)]

theorem exec_measure_raises (hp : s.phase = .start) (hc : s.tainted = false) (hop : s.lat.op = 4)
    (h : s.lat.checkMeasure = some e) (l : Level) : exec (.measure l) s = .next (s.erredWith e.code 0) := by
  rw [exec_measure hp, measureWork_of_check h, raiseError_of_noDst hc (by rw [hop]; rfl)]

end FailedCheck

/-- The fourth check of `DECOMPRESS`, once the header gives the length (R804). -/
theorem withHeader_raises {s : State} {h : Word} (hcap : s.lat.cap.toNat < h.toInt.natAbs) (f : State → State) :
    s.withHeader h f = s.raiseError .insufficientDestination 0 := by
  rw [← headerMagnitude_toNat] at hcap
  exact if_pos hcap

/-! `NOP` and the reserved commands (R810, R812). -/

theorem exec_nop_done {s : State} (hp : s.phase = .start) (hc : s.tainted = false) :
    exec .nop s = .next (s.doneWith 0 false false) := by
  rw [exec_nop hp, complete_of_untainted hc]

/-- Settles O19: each check that fails after the ones before it, and the capacity check at the header. -/
theorem startChecksRaiseInOrder : Obligations.StartChecksRaiseInOrder := by
  unfold Obligations.StartChecksRaiseInOrder
  intro s level hc src n dst cap raises
  have hsrc : src ≠ 0 → s.lat.src ≠ 0 := fun h e => h ((src_eq_zero_iff s.lat).mp e)
  have hnull : src = 0 → s.lat.src = 0 := (src_eq_zero_iff s.lat).mpr
  have hbad : BadRanges src n dst cap → s.lat.rangesBad = true := (rangesBad_iff s.lat).mpr
  have hwrap : 2 ^ 32 < src + n → s.lat.srcWraps = true := (srcWraps_iff s.lat).mpr
  refine ⟨fun hp => ⟨exec_nop_done hp hc, fun h => ?_, fun h0 hn => ?_, fun h0 hn hb => ?_, fun h0 hn hb hcap => ?_,
    fun h0 hb => ?_, fun h0 hb hn => ?_, fun hop => ⟨fun h => ?_, fun h0 hb => ?_, fun h0 hb hn => ?_⟩,
    fun hop => ⟨fun h => ?_, fun h0 hn => ?_, fun h0 hn hb => ?_⟩⟩, fun hp h hcap => ⟨fun _ => ?_, fun _ => ?_⟩⟩
  · exact ⟨exec_compress_raises hp hc (checkCompress_of_null (hnull h)) level,
      exec_decompress_raises hp hc (checkDecompress_of_null (hnull h))⟩
  · exact exec_compress_raises hp hc (checkCompress_of_large (hsrc h0) hn) level
  · exact exec_compress_raises hp hc (checkCompress_of_bad (hsrc h0) hn (hbad hb)) level
  · exact exec_compress_raises hp hc (checkCompress_of_small (hsrc h0) hn (rangesBad_eq_false hb) hcap) level
  · exact exec_decompress_raises hp hc (checkDecompress_of_bad (hsrc h0) (hbad hb))
  · exact exec_decompress_raises hp hc (checkDecompress_of_short (hsrc h0) (rangesBad_eq_false hb) hn)
  · exact exec_getLength_raises hp hc hop (checkGetLength_of_null (hnull h))
  · exact exec_getLength_raises hp hc hop (checkGetLength_of_bad (hsrc h0) (hwrap hb))
  · exact exec_getLength_raises hp hc hop (checkGetLength_of_short (hsrc h0) (srcWraps_eq_false hb) hn)
  · exact exec_measure_raises hp hc hop (checkMeasure_of_null (hnull h)) level
  · exact exec_measure_raises hp hc hop (checkMeasure_of_large (hsrc h0) hn) level
  · exact exec_measure_raises hp hc hop (checkMeasure_of_bad (hsrc h0) hn (hwrap hb)) level
  · exact ⟨_, (exec_hdrStored hp h).trans (congrArg _ (withHeader_raises hcap _)), raiseError_erredAny hc _ 0⟩
  · exact ⟨_, (exec_hdrHuffman hp h).trans (congrArg _ (withHeader_raises hcap _)), raiseError_erredAny hc _ 0⟩

/-- Settles O27. -/
theorem decompressReadsHeaderNext : Obligations.DecompressReadsHeaderNext := by
  unfold Obligations.DecompressReadsHeaderNext
  intro s hp _ h0 hb hn
  rw [exec_decompress hp]
  unfold State.decompressWork
  rw [checkDecompress_eq_none h0 (rangesBad_eq_false hb) hn]
  rfl

/-! A command written while idle and run at once (R800). -/

/-- The engine's turn right after a write to `CMD` runs the command that was written. -/
theorem step_startCommand {s : State} {rest : List Input} {v : Word} (h : s.inputs = .engine :: rest) :
    step (s.startCommand v) =
      exec (decodeCommand (s.startCommand v).lat.commandWord) (s.startCommand v).taken :=
  (step_of_engineTurn (s := s.startCommand v) (.inr ⟨rest, h⟩)).trans (engineStep_of_run (fetch_of_start rfl))

theorem decodeCommand_of_nop {w : Word} (h : w.extractLsb' 0 3 = 0) : decodeCommand w = .nop := by
  unfold decodeCommand; rw [h]; rfl

theorem decodeCommand_of_reserved {w : Word} (h : w.extractLsb' 0 3 ∈ [(5 : BitVec 3), 6, 7]) :
    decodeCommand w ∈ [Instr.reservedOp5, Instr.reservedOp6, Instr.reservedOp7] := by
  simp only [List.mem_cons, List.not_mem_nil, or_false] at h
  unfold decodeCommand
  rcases h with h | h | h <;> simp [h]

/-- Settles O18: both commands from `exec`, and from the write to `CMD` that starts them. -/
theorem nopAndReservedCommandsEndAtOnce : Obligations.NopAndReservedCommandsEndAtOnce := by
  unfold Obligations.NopAndReservedCommandsEndAtOnce
  refine ⟨fun s hp hc => exec_nop_done hp hc, fun s rest v h hb hop => ?_, fun i s hi hp hc h1 h2 => ?_,
    fun s rest v h hb hop => ?_⟩
  · have hstep := step_startCommand (s := { s with inputs := .engine :: rest }) (v := v) rfl
    rw [decodeCommand_of_nop (by rw [commandWord_op]; exact hop), exec_nop_done rfl rfl] at hstep
    refine ⟨_, _, step_cmdWrite_of_idle h hb, rfl, ?_, hstep, rfl, rfl, rfl, ?_⟩
    · rw [← hop]; rfl
    · rw [← hop]; rfl
  · rw [exec_reserved hp hi, raiseError_of_noDst hc (decide_eq_false (not_or.mpr ⟨h1, h2⟩))]
    rfl
  · have hd : writesDst (v.extractLsb' 0 3) = false := by
      simp only [List.mem_cons, List.not_mem_nil, or_false] at hop
      rcases hop with h | h | h <;> (rw [h]; rfl)
    have hstep := step_startCommand (s := { s with inputs := .engine :: rest }) (v := v) rfl
    rw [exec_reserved rfl (decodeCommand_of_reserved (by rw [commandWord_op]; exact hop)),
      raiseError_of_noDst rfl hd] at hstep
    exact ⟨_, _, step_cmdWrite_of_idle h hb, rfl, rfl, hstep, rfl, rfl, rfl, rfl⟩

/-! `GET_LENGTH` (R806). -/

theorem toNat_append_eq {n m : Nat} (x : BitVec n) (y : BitVec m) : (x ++ y).toNat = x.toNat * 2 ^ m + y.toNat := by
  rw [BitVec.toNat_append, ← Nat.shiftLeft_add_eq_or_of_lt y.isLt, Nat.shiftLeft_eq]

/-- Four bytes as one little-endian word (20_memory.md R203). -/
theorem bytesWord_toNat (a b c d : Byte) :
    (a.zeroExtend 32 ||| (b.zeroExtend 32 <<< 8) ||| (c.zeroExtend 32 <<< 16) ||| (d.zeroExtend 32 <<< 24)).toNat =
      a.toNat + 2 ^ 8 * b.toNat + 2 ^ 16 * c.toNat + 2 ^ 24 * d.toNat := by
  have h : a.zeroExtend 32 ||| (b.zeroExtend 32 <<< 8) ||| (c.zeroExtend 32 <<< 16) ||| (d.zeroExtend 32 <<< 24) =
      (d ++ c ++ b ++ a : BitVec 32) := by
    ext i hi
    simp only [BitVec.zeroExtend, BitVec.getElem_or, BitVec.getElem_shiftLeft, BitVec.getElem_setWidth]
    rcases (by omega : i < 8 ∨ (8 ≤ i ∧ i < 16) ∨ (16 ≤ i ∧ i < 24) ∨ 24 ≤ i) with h | h | h | h <;>
      grind
  rw [h, toNat_append_eq, toNat_append_eq, toNat_append_eq]
  omega

theorem readWord_toNat (m : Memory) (a : Word) :
    (m.readWord a).toNat = (m.read a).toNat + 2 ^ 8 * (m.read (a + 1)).toNat + 2 ^ 16 * (m.read (a + 2)).toNat +
      2 ^ 24 * (m.read (a + 3)).toNat :=
  bytesWord_toNat _ _ _ _

theorem headerMagnitude_eq_ofNat (h : Word) : headerMagnitude h = BitVec.ofNat 32 h.toInt.natAbs := by
  rw [← headerMagnitude_toNat, BitVec.ofNat_toNat, BitVec.setWidth_eq]

theorem headerIsHuffman_eq (h : Word) : headerIsHuffman h = decide (0 < h.toInt) := by
  have hlt := h.isLt
  have hz : (h != 0) = decide (h.toNat ≠ 0) := by
    rw [bne, Bool.eq_iff_iff]
    simp [BitVec.toNat_eq]
  unfold headerIsHuffman
  rw [BitVec.toInt_eq_msb_cond, hz]
  cases h.msb with
  | true => simp; omega
  | false => simp [Nat.pos_iff_ne_zero]

/-- Settles O20: the checks, then the value of the header word that is read. -/
theorem getLengthReturnsMagnitude : Obligations.GetLengthReturnsMagnitude := by
  unfold Obligations.GetLengthReturnsMagnitude
  intro s h hp hc hop hh
  have hw : s.mem.readWord s.lat.src = h := BitVec.eq_of_toNat_eq ((readWord_toNat _ _).trans hh.symm)
  refine ⟨fun h0 => ?_, fun h0 hb => ?_, fun h0 hb hn => ?_, fun h0 hb hn => ?_⟩
  · exact exec_getLength_raises hp hc hop (checkGetLength_of_null h0)
  · exact exec_getLength_raises hp hc hop (checkGetLength_of_bad h0 ((srcWraps_iff s.lat).mpr hb))
  · exact exec_getLength_raises hp hc hop (checkGetLength_of_short h0 (srcWraps_eq_false hb) hn)
  · rw [exec_getLength hp]
    unfold State.getLengthWork
    rw [checkGetLength_eq_none h0 (srcWraps_eq_false hb) hn]
    simp only [hw, complete_of_untainted hc, headerMagnitude_eq_ofNat, headerIsHuffman_eq]

end Sys2Proof.Proofs

/-! PROOFS. How COMPRESS and MEASURE complete (49_host_commands.md R802, R808): the stored form at the destination, or the
Huffman form whose payload words the attempt wrote. -/

namespace Sys2Proof.Proofs

open Sys2Proof Sys2Proof.Machine Sys2Proof.Laws

/-! `StoredForm()` (R802). -/

theorem add_four_add_ofNat (a : Word) (j : Nat) : a + 4 + BitVec.ofNat 32 j = a + BitVec.ofNat 32 (4 + j) := by
  rw [BitVec.add_assoc, BitVec.ofNat_add]; rfl

theorem dst_byte_ne {a : Word} {i j : Nat} (hi : i < 2 ^ 32) (hj : j < 2 ^ 32) (h : i ≠ j) :
    a + BitVec.ofNat 32 i ≠ a + BitVec.ofNat 32 j := fun e => h (ofNat_add_inj hi hj e)

/-- The stored form after work that wrote nothing but behind the header. -/
theorem storedForm_storedAt {s u : State} (hc : s.lat.checkCompress = none) (hl : u.lat = s.lat)
    (hm : SameExcept s.mem u.mem (s.lat.dst + 4) s.lat.n.toNat) : StoredAt s u.storedForm := by
  obtain ⟨hbad, hcap⟩ := checkCompress_none hc
  have hn := s.lat.cap.isLt
  have hmem : u.storedForm.mem = Memory.copyForward (s.lat.dst + 4) s.lat.src s.lat.n.toNat 0
      (u.mem.writeWord s.lat.dst (-s.lat.n)) := by rw [storedForm_mem, hl]
  refine ⟨fun j hj => ?_, fun j hj => ?_, fun x hx => ?_⟩
  · rw [hmem, read_copyForward_other _ _ _ _ _ _ (fun i _ hi => ?_), read_writeWord_same _ _ _ _ hj]
    rw [add_four_add_ofNat]
    exact dst_byte_ne (by omega) (by omega) (by omega)
  · have hsrc : ∀ i < s.lat.cap.toNat, s.lat.src + BitVec.ofNat 32 j ≠ s.lat.dst + BitVec.ofNat 32 i :=
      fun i hi => src_ne_dst hbad hj hi
    rw [hmem, ← add_four_add_ofNat, read_copyForward_same _ _ _ _ _ (by omega) (fun i k _ hi _ hk => ?_) j (by omega) (by omega),
      read_writeWord_other _ _ _ _ (fun i hi => hsrc i (by omega))]
    · refine hm _ (fun i hi => ?_)
      rw [add_four_add_ofNat]
      exact hsrc (4 + i) (by omega)
    · rw [add_four_add_ofNat]
      exact src_ne_dst hbad (by omega) (by omega)
  · have hpayload : ∀ i < s.lat.n.toNat, x ≠ s.lat.dst + 4 + BitVec.ofNat 32 i := fun i hi => by
      rw [add_four_add_ofNat]; exact hx (4 + i) (by omega)
    rw [hmem, read_copyForward_other _ _ _ _ _ _ (fun i _ hi => hpayload i (by omega)),
      read_writeWord_other _ _ _ _ (fun i hi => hx i (by omega))]
    exact hm x hpayload

theorem sameExcept_refl (m : Memory) (a : Word) (k : Nat) : SameExcept m m a k := fun _ _ => rfl

/-- COMPRESS of fewer than 4 bytes (R802). -/
theorem compressWork_of_short {s : State} {l : Level} (hc : s.tainted = false) (hcheck : s.lat.checkCompress = none)
    (hn : s.lat.n.toNat < 4) : s.compressWork l = s.storedForm.doneWith (s.lat.n + 4) false false := by
  unfold State.compressWork
  rw [hcheck]
  exact (if_pos hn).trans (complete_of_untainted (s := s.storedForm) hc _ _ _)

/-- Settles O21: fewer than 4 bytes are stored at once. -/
theorem compressShortInputStores : Obligations.CompressShortInputStores := by
  unfold Obligations.CompressShortInputStores
  intro s level hp hc h0 hn hb hcap
  have hcheck : s.lat.checkCompress = none := checkCompress_eq_none h0 (by omega) (rangesBad_eq_false hb) hcap
  refine ⟨_, (exec_compress hp level).trans (congrArg _ (compressWork_of_short hc hcheck hn)), ?_, rfl, rfl,
    ⟨rfl, rfl, rfl, rfl, rfl⟩, ⟨rfl, rfl, rfl, rfl⟩, rfl, rfl, rfl⟩
  exact storedForm_storedAt hcheck rfl (sameExcept_refl _ _ _)

/-! The Huffman attempt (R802, R808). -/

theorem huffmanLength_eq (wr : Writer) : huffmanLength wr = BitVec.ofNat 32 (4 + 4 * wr.words.toNat) := by
  apply BitVec.eq_of_toNat_eq
  have h4 : (4 : Word).toNat = 4 := rfl
  simp only [huffmanLength, BitVec.toNat_add, BitVec.toNat_mul, wwords_toNat, BitVec.toNat_ofNat, h4]
  omega

/-- The bytes of the attempt are the payload words that it counts. -/
theorem attempt_sameExcept_words (s : State) (l : Level) (mode : WMode) :
    SameExcept s.mem (s.attempt l mode).work.mem (s.lat.dst + 4) (4 * (s.attempt l mode).work.wr.words.toNat) :=
  fun x hx => (attempt_emits s l mode).frame x fun j _ hj => hx j hj

/-- The header of the Huffman form in front of the payload words. -/
theorem huffmanForm_sameExcept {m m' : Memory} {dst : Word} {k : Nat} (h : SameExcept m m' (dst + 4) k) (w : Word) :
    SameExcept m (m'.writeWord dst w) dst (4 + k) := by
  intro x hx
  rw [read_writeWord_other _ _ _ _ (fun j hj => hx j (by omega))]
  refine h x fun j hj => ?_
  rw [add_four_add_ofNat]
  exact hx (4 + j) (by omega)

section Compress

variable {s : State} {l : Level} {w : Work}

/-- COMPRESS where the attempt fits (R802). -/
theorem compressWork_of_ok (hc : s.tainted = false) (hcheck : s.lat.checkCompress = none) (hn : 4 ≤ s.lat.n.toNat)
    (h : s.attempt l .write = .ok w) :
    s.compressWork l = State.doneWith { s.withWork w with mem := w.mem.writeWord s.lat.dst s.lat.n }
      (huffmanLength w.wr) true false := by
  unfold State.compressWork
  rw [hcheck]
  simp only [if_neg (Nat.not_lt.mpr hn), h]
  exact complete_of_untainted (s := { s.withWork w with mem := w.mem.writeWord s.lat.dst s.lat.n }) hc _ _ _

/-- COMPRESS where the attempt runs out of space (R802). -/
theorem compressWork_of_noSpace (hc : s.tainted = false) (hcheck : s.lat.checkCompress = none) (hn : 4 ≤ s.lat.n.toNat)
    (h : s.attempt l .write = .noSpace w) :
    s.compressWork l = (s.withWork w).storedForm.doneWith (s.lat.n + 4) false true := by
  unfold State.compressWork
  rw [hcheck]
  simp only [if_neg (Nat.not_lt.mpr hn), h]
  exact complete_of_untainted (s := (s.withWork w).storedForm) hc _ _ _

/-- The fallback's stored form. -/
theorem fallback_storedAt (hcheck : s.lat.checkCompress = none) (h : s.attempt l .write = .noSpace w) :
    StoredAt s (s.withWork w).storedForm := by
  have hm := attempt_sameExcept s l .write
  rw [h] at hm
  exact storedForm_storedAt (u := s.withWork w) hcheck rfl hm

theorem measureWork_of_ok (hc : s.tainted = false) (hcheck : s.lat.checkMeasure = none) (hn : 4 ≤ s.lat.n.toNat)
    (h : s.attempt l .measure = .ok w) :
    s.measureWork l = (s.withWork w).doneWith (huffmanLength w.wr) true false := by
  unfold State.measureWork
  rw [hcheck]
  simp only [if_neg (Nat.not_lt.mpr hn), h]
  exact complete_of_untainted (s := s.withWork w) hc _ _ _

theorem measureWork_of_noSpace (hc : s.tainted = false) (hcheck : s.lat.checkMeasure = none) (hn : 4 ≤ s.lat.n.toNat)
    (h : s.attempt l .measure = .noSpace w) :
    s.measureWork l = (s.withWork w).doneWith (s.lat.n + 4) false true := by
  unfold State.measureWork
  rw [hcheck]
  simp only [if_neg (Nat.not_lt.mpr hn), h]
  exact complete_of_untainted (s := s.withWork w) hc _ _ _

theorem measureWork_of_short (hc : s.tainted = false) (hcheck : s.lat.checkMeasure = none) (hn : s.lat.n.toNat < 4) :
    s.measureWork l = s.doneWith (s.lat.n + 4) false false := by
  unfold State.measureWork
  rw [hcheck]
  exact (if_pos hn).trans (complete_of_untainted hc _ _ _)

end Compress

/-- Settles O22: the attempt fits, or its fallback is stored over it. -/
theorem compressCompletes : Obligations.CompressCompletes := by
  unfold Obligations.CompressCompletes
  intro s level hp hc h0 h4 hn hb hcap
  have hcheck : s.lat.checkCompress = none := checkCompress_eq_none h0 hn (rangesBad_eq_false hb) hcap
  have hwords := attempt_words_le s level .write
  have hframe := attempt_sameExcept_words s level .write
  cases h : s.attempt level .write with
  | ok w =>
    rw [h] at hwords hframe
    refine ⟨_, (exec_compress hp level).trans (congrArg _ (compressWork_of_ok hc hcheck h4 h)), rfl, ⟨rfl, rfl, rfl, rfl⟩, rfl,
      rfl, .inl ⟨w.wr.words.toNat, hwords, ?_, fun j hj => ?_, ?_⟩⟩
    · rw [← huffmanLength_eq]; rfl
    · exact read_writeWord_same _ _ _ _ hj
    · exact huffmanForm_sameExcept hframe s.lat.n
  | noSpace w =>
    exact ⟨_, (exec_compress hp level).trans (congrArg _ (compressWork_of_noSpace hc hcheck h4 h)), rfl, ⟨rfl, rfl, rfl, rfl⟩,
      rfl, rfl, .inr ⟨rfl, fallback_storedAt hcheck h⟩⟩

/-- Settles O23: the attempt in measure mode changes no memory. -/
theorem measureCompletes : Obligations.MeasureCompletes := by
  unfold Obligations.MeasureCompletes
  intro s level hp hc h0 hn hwrap
  have hcheck : s.lat.checkMeasure = none := checkMeasure_eq_none h0 hn (srcWraps_eq_false hwrap)
  by_cases h4 : s.lat.n.toNat < 4
  · exact ⟨_, (exec_measure hp level).trans (congrArg _ (measureWork_of_short hc hcheck h4)), rfl, rfl, ⟨rfl, rfl, rfl, rfl⟩,
      rfl, rfl, fun _ => rfl, fun h => absurd h (by omega)⟩
  · have h4' : 4 ≤ s.lat.n.toNat := by omega
    have hwords := attempt_words_le s level .measure
    have hmem := attempt_measure_mem s level
    cases h : s.attempt level .measure with
    | ok w =>
      rw [h] at hwords hmem
      refine ⟨_, (exec_measure hp level).trans (congrArg _ (measureWork_of_ok hc hcheck h4' h)), rfl, hmem, ⟨rfl, rfl, rfl, rfl⟩,
        rfl, rfl, fun hlt => absurd hlt h4, fun _ => .inl ⟨w.wr.words.toNat, hwords, ?_⟩⟩
      rw [← huffmanLength_eq]; rfl
    | noSpace w =>
      rw [h] at hmem
      exact ⟨_, (exec_measure hp level).trans (congrArg _ (measureWork_of_noSpace hc hcheck h4' h)), rfl, hmem,
        ⟨rfl, rfl, rfl, rfl⟩, rfl, rfl, fun hlt => absurd hlt h4, fun _ => .inr rfl⟩

end Sys2Proof.Proofs

/-! PROOFS. Every command ends (70_reset_and_hazards.md R959): a turn of the busy engine lowers the number of turns that can be
left, whatever the source holds. Bytes of output weigh most, then the part of the block that is being read. -/

namespace Sys2Proof.Proofs

open Sys2Proof Sys2Proof.Machine Sys2Proof.Laws

/-! Tokens make progress. -/

theorem sym_lt_of_clsym {i : Instr} (h : (encode i).fmt = .clsym) : (encode i).sym < 20 := by
  cases i <;> first | (cases h; done) | (simp only [encode]; decide)

theorem sym_lt_of_llsym {i : Instr} (h : (encode i).fmt = .llsym) : (encode i).sym < 320 := by
  cases i <;> first | (cases h; done) | (simp only [encode]; omega)

theorem runBase_pos {t : Nat} (h15 : 15 ≤ t) (h20 : t < 20) : 0 < runBase t := by
  have h : ∀ t < 20, 15 ≤ t → 0 < runBase t := by decide
  exact h t h20 h15

theorem lenBase_pos {i : Nat} (h : i < 64) : 0 < lenBase i :=
  (by decide : ∀ i < 64, 0 < lenBase i) i h

/-- An accepted code-length token moves the index on (R706). -/
theorem lt_of_applyCodeLength {t x count i k : Nat} {lens lens' : List (BitVec 4)} (ht : t < 20)
    (h : applyCodeLength t x count i lens = some (lens', k)) : i < k := by
  unfold applyCodeLength at h
  split_ifs at h with h14 h0 hc
  · cases h; omega
  · cases h
    have hb := runBase_pos (t := t) (by omega) ht
    unfold repeatCount
    omega

/-! The turns that are left. -/

/-- How far a phase is from the next byte of output; a length 0, which no token gives, makes none. -/
def phaseRank : Phase → Nat
  | .idle => 0
  | .start => 0
  | .header => 0
  | .block => 500
  | .rle .literal count i => 100 + (count - i)
  | .rle .distance count i => 10 + (count - i)
  | .symbol => 2
  | .dist len => if len = 0 then 501 else 1

/-- More than a command has turns left from its header on. -/
def turnsOfHeader : Nat := 502 * 2 ^ 32 + 600

/-- A bound of the turns that a command has left. -/
def turnsLeft (s : State) : Nat :=
  match s.phase with
  | .idle => 0
  | .start => turnsOfHeader + 1
  | .header => turnsOfHeader
  | p => 1 + 502 * (s.dec.m.toNat - s.dec.out.toNat) + phaseRank p

section Turns

variable {s t : State}

theorem turnsLeft_of_idle (hp : s.phase = .idle) : turnsLeft s = 0 := by simp only [turnsLeft, hp]

theorem turnsLeft_of_start (hp : s.phase = .start) : turnsLeft s = turnsOfHeader + 1 := by simp only [turnsLeft, hp]

theorem turnsLeft_of_header (hp : s.phase = .header) : turnsLeft s = turnsOfHeader := by simp only [turnsLeft, hp]

theorem turnsLeft_of_reading (h : ReadsStream s) :
    turnsLeft s = 1 + 502 * (s.dec.m.toNat - s.dec.out.toNat) + phaseRank s.phase := by
  rcases h with hp | ⟨q, c, j, hp⟩ | hp | ⟨len, hp⟩ <;> simp only [turnsLeft, hp]

theorem phaseRank_block : phaseRank .block = 500 := rfl

theorem phaseRank_symbol : phaseRank .symbol = 2 := rfl

theorem phaseRank_dist {len : Nat} (h : 0 < len) : phaseRank (.dist len) = 1 := if_neg (by omega)

theorem phaseRank_dist_zero : phaseRank (.dist 0) = 501 := rfl

theorem phaseRank_literal (count i : Nat) : phaseRank (.rle .literal count i) = 100 + (count - i) := rfl

theorem phaseRank_distance (count i : Nat) : phaseRank (.rle .distance count i) = 10 + (count - i) := rfl

theorem turnsLeft_blockLoop_le (s : State) : turnsLeft s.blockLoop ≤ 501 + 502 * (s.dec.m.toNat - s.dec.out.toNat) := by
  rcases blockLoop_cases s with ⟨_, e⟩ | ⟨_, e⟩
  · rw [e, turnsLeft_of_reading (s := { s with phase := .block }) (.inl rfl), phaseRank_block]; dsimp only; omega
  · rw [e, turnsLeft_of_idle (complete_phase _ _ _ _)]; exact Nat.zero_le _

theorem turnsLeft_symbolLoop_le (s : State) : turnsLeft s.symbolLoop ≤ 501 + 502 * (s.dec.m.toNat - s.dec.out.toNat) := by
  rcases symbolLoop_cases s with ⟨_, _, e⟩ | ⟨_, e⟩
  · rw [e, turnsLeft_of_reading (s := { s with phase := .symbol }) (.inr (.inr (.inl rfl))), phaseRank_symbol]; dsimp only; omega
  · rw [e]; exact turnsLeft_blockLoop_le s

theorem turnsLeft_raiseError (s : State) (e : ErrCode) (info : Word) : turnsLeft (s.raiseError e info) = 0 :=
  turnsLeft_of_idle (raiseError_phase s e info)

theorem turnsLeft_complete (s : State) (len : Word) (a b : Bool) : turnsLeft (s.complete len a b) = 0 :=
  turnsLeft_of_idle (complete_phase s len a b)

theorem out_add_toNat {m out : Word} {k : Nat} (hk : k ≤ m.toNat - out.toNat) (hout : out.toNat < m.toNat) :
    (out + BitVec.ofNat 32 k).toNat = out.toNat + k := by
  have hm := m.isLt
  rw [BitVec.toNat_add, BitVec.toNat_ofNat, Nat.mod_eq_of_lt (a := k) (by omega), Nat.mod_eq_of_lt (by omega)]

/-! One turn. -/

theorem turnsLeft_commandWork {i : Instr} (hp : s.phase = .start) (h : CommandWork i s t) : turnsLeft t < turnsLeft s := by
  rw [turnsLeft_of_start hp]
  by_cases hi : i = .decompress
  · subst hi
    have ht : t = s.decompressWork := by
      rcases h with ⟨hi, _⟩ | ⟨l, hi, _⟩ | ⟨_, ht⟩ | ⟨hi, _⟩ | ⟨l, hi, _⟩ | ⟨hi, _⟩
      · cases hi
      · cases hi
      · exact ht
      · cases hi
      · cases hi
      · simp at hi
    rcases decompressWork_cases s with ⟨e, _, hw⟩ | ⟨_, hw⟩
    · rw [ht, hw, turnsLeft_raiseError]; omega
    · rw [ht, hw, turnsLeft_of_header rfl]; omega
  · rw [turnsLeft_of_idle (commandWork_idle hi h)]; omega

theorem turnsLeft_header {i : Instr} (hp : s.phase = .header) (h : exec i s = .next t) : turnsLeft t < turnsLeft s := by
  have hpos : 0 < turnsLeft s := by rw [turnsLeft_of_header hp]; decide
  have none : ∀ {p : Phase}, s.phase = p → p ≠ .header → False := fun h h' => h' (h.symm.trans hp)
  rcases exec_next_cases h with ⟨hq, _⟩ | ⟨_, ⟨w, rfl⟩ | ⟨w, rfl⟩⟩ | ⟨hq, _⟩ | ⟨⟨q, c, j, hq⟩, _⟩ | ⟨hq, _⟩ | ⟨len, hq, _⟩
  · exact (none hq (by simp)).elim
  · rcases storedHeader_cases s w with ⟨_, e⟩ | ⟨_, _, e⟩ | ⟨_, _, e⟩
    · rwa [e, turnsLeft_raiseError]
    · rwa [e, turnsLeft_raiseError]
    · rwa [e, turnsLeft_complete]
  · rcases huffmanHeader_cases s w with ⟨_, e⟩ | ⟨_, e⟩
    · rwa [e, turnsLeft_raiseError]
    · rw [e, turnsLeft_of_header hp]
      have hm := (headerMagnitude w).isLt
      refine lt_of_le_of_lt (turnsLeft_blockLoop_le _) ?_
      unfold turnsOfHeader
      simp only
      omega
  · exact (none hq (by simp)).elim
  · exact (none hq (by simp)).elim
  · exact (none hq (by simp)).elim
  · exact (none hq (by simp)).elim

theorem turnsLeft_block {i : Instr} (hp : s.phase = .block) (hout : s.dec.out.toNat < s.dec.m.toNat) (ht : t.DecodeInv)
    (h : exec i s = .next t) : turnsLeft t < turnsLeft s := by
  rw [turnsLeft_of_reading (.inl hp), hp, phaseRank_block]
  have none : ∀ {p : Phase}, s.phase = p → p ≠ .block → False := fun h h' => h' (h.symm.trans hp)
  rcases exec_next_cases h with ⟨hq, _⟩ | ⟨hq, _⟩ | ⟨_, hw | hw⟩ | ⟨⟨q, c, j, hq⟩, _⟩ | ⟨hq, _⟩ | ⟨len, hq, _⟩
  · exact (none hq (by simp)).elim
  · exact (none hq (by simp)).elim
  · rcases storedBlockWork_next hw with ⟨c, info, rfl⟩ | ⟨e, r1, r2, mem, r3, _, _, _, rfl⟩
    · rw [turnsLeft_raiseError]; omega
    · have hk := storedCount_le e s.dec.m.toNat s.dec.out.toNat
      have hpos : 0 < storedCount e s.dec.m.toNat s.dec.out.toNat :=
        Nat.lt_min.mpr ⟨Nat.lt_of_lt_of_le (by decide) (Nat.le_add_right Config.blockSyms e), by omega⟩
      refine lt_of_le_of_lt (turnsLeft_blockLoop_le _) ?_
      simp only [out_add_toNat hk hout]
      omega
  · rcases compressedBlockWork_next hw with ⟨c, info, rfl⟩ | ⟨lens, r1, tree, f, r2, _, _, _, rfl⟩
    · rw [turnsLeft_raiseError]; omega
    · obtain ⟨htrees, _⟩ := ht
      obtain ⟨_, _, hcount, _⟩ := (treesBuilt_literal rfl).mp htrees
      rw [turnsLeft_of_reading (.inr (.inl ⟨_, _, _, rfl⟩))]
      simp only [phaseRank_literal]
      omega
  · exact (none hq (by simp)).elim
  · exact (none hq (by simp)).elim
  · exact (none hq (by simp)).elim

theorem turnsLeft_codeLength {q : RleSeq} {count j sym x : Nat} (hp : s.phase = .rle q count j) (hsym : sym < 20)
    (hout : s.dec.out.toNat < s.dec.m.toNat) (ht : t.DecodeInv) (h : s.codeLength sym x = .next t) :
    turnsLeft t < turnsLeft s := by
  rw [turnsLeft_of_reading (.inr (.inl ⟨q, count, j, hp⟩)), hp]
  obtain ⟨htrees, _⟩ := ht
  rcases codeLength_next hp h with ⟨u, e, info, rfl, _⟩ |
    ⟨lens, k, ha, ⟨hk, rfl⟩ | ⟨_, rfl, tree, f, r, _, _, rfl⟩ | ⟨_, rfl, tree, _, rfl⟩⟩
  · rw [turnsLeft_raiseError]; omega
  · have hjk := lt_of_applyCodeLength hsym ha
    rw [turnsLeft_of_reading (.inr (.inl ⟨q, count, k, rfl⟩))]
    cases q with
    | literal => simp only [phaseRank_literal, setLens_out, setLens_m]; omega
    | distance => simp only [phaseRank_distance, setLens_out, setLens_m]; omega
  · obtain ⟨_, _, _, hcount, _⟩ := (treesBuilt_distance rfl).mp htrees
    rw [turnsLeft_of_reading (.inr (.inl ⟨_, _, _, rfl⟩))]
    simp only [phaseRank_literal, phaseRank_distance]
    omega
  · rcases symbolLoop_cases { s with dec := { s.dec with lensDist := clearFrom count 64 lens, distTree := tree, bsym := 0 } } with
      ⟨_, _, e⟩ | ⟨hno, _⟩
    · rw [e, turnsLeft_of_reading (.inr (.inr (.inl rfl)))]
      simp only [phaseRank_symbol, phaseRank_distance]
      omega
    · have hzero : (0 : BitVec 14).toNat < Config.blockSyms := by decide
      exact absurd ⟨hzero, hout⟩ hno

theorem turnsLeft_symbol {i : Instr} (hp : s.phase = .symbol) (hfmt : (encode i).fmt = .llsym)
    (hout : s.dec.out.toNat < s.dec.m.toNat) (h : exec i s = .next t) : turnsLeft t < turnsLeft s := by
  rw [turnsLeft_of_reading (.inr (.inr (.inl hp))), hp, phaseRank_symbol]
  rcases exec_of_llsym hfmt s with ⟨b, rfl⟩ | ⟨hsym, he⟩
  · rw [exec_lit hp] at h
    cases h
    refine lt_of_le_of_lt (turnsLeft_symbolLoop_le _) ?_
    have hone := out_add_toNat (k := 1) (m := s.dec.m) (out := s.dec.out) (by omega) hout
    simp only [BitVec.ofNat_eq_ofNat] at hone ⊢
    omega
  · rw [he, lengthToken_of_symbol hp] at h
    cases h
    have hlt := sym_lt_of_llsym hfmt
    have hpos : 0 < lenBase ((encode i).sym - 256) + (encode i).x :=
      Nat.add_pos_left (lenBase_pos (by omega)) _
    rw [turnsLeft_of_reading (.inr (.inr (.inr ⟨_, rfl⟩)))]
    simp only [phaseRank_dist hpos]
    omega

theorem turnsLeft_distance {len : Nat} (hp : s.phase = .dist len) (hout : s.dec.out.toNat < s.dec.m.toNat) (c x : Nat) :
    turnsLeft (s.distanceWork len c x) < turnsLeft s := by
  rw [turnsLeft_of_reading (.inr (.inr (.inr ⟨len, hp⟩))), hp]
  rcases distanceWork_cases s len c x with ⟨e, u, h, _, _⟩ | ⟨d, cache, _, _, hlen, h⟩
  · rw [h, turnsLeft_raiseError]; omega
  · rw [h]
    refine lt_of_le_of_lt (turnsLeft_symbolLoop_le _) ?_
    have hnext : ({ s with cache := cache }.copyMatch len d).dec = { s.dec with out := s.dec.out + BitVec.ofNat 32 len } := rfl
    rw [hnext, out_add_toNat hlen hout]
    rcases Nat.eq_zero_or_pos len with rfl | hpos
    · rw [phaseRank_dist_zero]; simp only; omega
    · rw [phaseRank_dist hpos]; simp only; omega

end Turns

/-- A turn of the busy engine leaves fewer turns. -/
theorem turnsLeft_engineStep {s t : State} (hd : s.DstInv) (ht : s.DecodeInv) (hp : s.phase ≠ .idle)
    (h : engineStep s = .next t) : turnsLeft t < turnsLeft s := by
  have room : ReadsStream s → s.dec.out.toNat < s.dec.m.toNat := fun hr => (outputRoom_of_phase hd hr).2.2
  have htree := engineStep_decodeInv ht h
  have hrd : ∀ {r : Reader}, ReadsStream s → turnsLeft { s with rd := r } = turnsLeft s := fun {r} hr => by
    rw [turnsLeft_of_reading (s := s) hr, turnsLeft_of_reading (s := { s with rd := r }) hr]
  rcases engineStep_cases h with ⟨hq, _⟩ | ⟨i, hq, rfl, he⟩ | ⟨i, hq, _, he⟩ | ⟨i, r, hq, _, he⟩ |
    ⟨q, count, j, i, r, hq, hr, he⟩ | ⟨i, r, hq, hr, he⟩ | ⟨len, i, r, hq, hr, he⟩ | ⟨e, info, _, hs, hh, rfl⟩
  · exact absurd hq hp
  · rcases exec_next_cases he with ⟨_, hw⟩ | ⟨hn, _⟩ | ⟨hn, _⟩ | ⟨⟨_, _, _, hn⟩, _⟩ | ⟨hn, _⟩ | ⟨_, hn, _⟩
    · exact turnsLeft_commandWork hq hw
    all_goals (rw [hq] at hn; cases hn)
  · exact turnsLeft_header hq he
  · have hreads : ReadsStream s := .inl hq
    rw [← hrd (r := r) hreads]
    exact turnsLeft_block (s := { s with rd := r }) hq (room hreads) htree he
  · have hreads : ReadsStream s := .inr (.inl ⟨q, count, j, hq⟩)
    have hfmt := fmt_of_readToken hr
    rw [exec_of_clsym hfmt] at he
    rw [← hrd (r := r) hreads]
    exact turnsLeft_codeLength (s := { s with rd := r }) hq (sym_lt_of_clsym hfmt) (room hreads) htree he
  · have hreads : ReadsStream s := .inr (.inr (.inl hq))
    rw [← hrd (r := r) hreads]
    exact turnsLeft_symbol (s := { s with rd := r }) hq (fmt_of_readToken hr) (room hreads) he
  · have hreads : ReadsStream s := .inr (.inr (.inr ⟨len, hq⟩))
    rw [exec_of_dsym (fmt_of_readToken hr), distanceToken_of_dist (s := { s with rd := r }) hq] at he
    cases he
    rw [← hrd (r := r) hreads]
    exact turnsLeft_distance (s := { s with rd := r }) hq (room hreads) _ _
  · rw [turnsLeft_raiseError]
    unfold turnsLeft
    split
    · exact absurd ‹_› hp
    · exact absurd ‹_› hs
    · exact absurd ‹_› hh
    · omega

/-- The engine's turn before the host acts. -/
theorem step_engine_entry (s : State) :
    step { s with inputs := .engine :: s.inputs } = engineStep { s with made := 0 } :=
  step_of_engineTurn (.inr ⟨s.inputs, rfl⟩)

/-- Settles O8, by induction on the turns that can be left. -/
theorem everyCommandEnds : Obligations.EveryCommandEnds := by
  unfold Obligations.EveryCommandEnds
  intro s
  induction hn : turnsLeft s using Nat.strong_induction_on generalizing s with
  | _ n ih =>
    intro hi hd ht
    by_cases hp : s.phase = .idle
    · obtain ⟨_, _, _, hidle, _⟩ := hi
      exact ⟨0, s, rfl, hp, hidle.mp hp⟩
    · have hi0 : State.Inv { s with made := 0 } := inv_of_frame hi hi.1 rfl rfl
      have hd0 : State.DstInv { s with made := 0 } := dstInv_of_frame hd rfl rfl rfl
      have ht0 : State.DecodeInv { s with made := 0 } := decodeInv_of_frame ht rfl rfl rfl
      obtain ⟨t, h⟩ := engineStep_answers ht0
      have hless := turnsLeft_engineStep hd0 ht0 hp h
      obtain ⟨k, u, hk, hend⟩ := ih (turnsLeft t) (hn ▸ hless) t rfl (engineStep_inv hi0 h) (engineStep_dstInv hd0 h)
        (engineStep_decodeInv ht0 h)
      exact ⟨k + 1, u, (engineTurns_succ ((step_engine_entry s).trans h) k).trans hk, hend⟩

end Sys2Proof.Proofs

/-! PROOFS. The scan of the source (41_match_finder.md R410, R411), walked once for every relation between the works of two
runs: what literals, matches and the match finder's tables keep, the scan keeps, and it ends with the whole source buffered. -/

namespace Sys2Proof.Proofs

open Sys2Proof Sys2Proof.Machine Sys2Proof.Laws

/-! Pairs of runs. -/

/-- Two operations that both go on, with works related by `A`, or both signal NoSpace, with works related by `N`. -/
def RunRel (A N : Work → Work → Prop) : Run → Run → Prop
  | .ok w, .ok w' => A w w'
  | .noSpace w, .noSpace w' => N w w'
  | .ok _, .noSpace _ => False
  | .noSpace _, .ok _ => False

theorem RunRel.andThen {A B N : Work → Work → Prop} {r r' : Run} {f f' : Work → Run} (h : RunRel A N r r')
    (hf : ∀ w w', r = .ok w → r' = .ok w' → A w w' → RunRel B N (f w) (f' w')) :
    RunRel B N (r.andThen f) (r'.andThen f') := by
  match r, r', h with
  | .ok w, .ok w', h => exact hf w w' rfl rfl h
  | .noSpace _, .noSpace _, h => exact h

theorem RunRel.mono {A B N : Work → Work → Prop} {r r' : Run} (h : RunRel A N r r') (hi : ∀ w w', A w w' → B w w') :
    RunRel B N r r' := by
  match r, r', h with
  | .ok w, .ok w', h => exact hi w w' h
  | .noSpace _, .noSpace _, h => exact h

theorem RunRel.cases {A N : Work → Work → Prop} {r r' : Run} (h : RunRel A N r r') :
    (∃ w w', r = .ok w ∧ r' = .ok w' ∧ A w w') ∨ ∃ w w', r = .noSpace w ∧ r' = .noSpace w' ∧ N w w' := by
  match r, r', h with
  | .ok w, .ok w', h => exact .inl ⟨w, w', rfl, rfl, h⟩
  | .noSpace w, .noSpace w', h => exact .inr ⟨w, w', rfl, rfl, h⟩

/-! The match finder's registers between two searches. -/

theorem andThen_mf {r : Run} {f : Work → Run} {m : MatchFinder} (h : r.work.mf = m)
    (hf : ∀ w, w.mf = m → (f w).work.mf = m) : (r.andThen f).work.mf = m := by
  cases r with
  | ok w => exact hf w h
  | noSpace w => exact h

theorem mf_of_ok {r : Run} {v : Work} {m : MatchFinder} (h : r.work.mf = m) (hv : r = .ok v) : v.mf = m := by
  rw [hv] at h; exact h

theorem emitWord_mf (v : Word) (w : Work) : (emitWord v w).work.mf = w.mf := by
  unfold emitWord
  split <;> rfl

theorem putBits_mf (v k : Nat) (w : Work) : (putBits v k w).work.mf = w.mf := by
  unfold putBits
  simp only
  split
  · exact andThen_mf (emitWord_mf _ w) fun _ h => h
  · rfl

theorem putFields_mf (l : List (Nat × Nat)) (w : Work) : (putFields l w).work.mf = w.mf := by
  induction l generalizing w with
  | nil => rfl
  | cons f rest ih => exact andThen_mf (putBits_mf _ _ w) fun w1 h => (ih w1).trans h

theorem emitStored_mf (e : Source) (w : Work) : (emitStored e w).work.mf = w.mf :=
  andThen_mf (putFields_mf _ w) fun w1 h1 =>
    andThen_mf ((putBits_mf _ _ w1).trans h1) fun w2 h2 => (putFields_mf _ w2).trans h2

theorem flush_mf (e : Source) (w : Work) : (flush e w).work.mf = w.mf := by
  unfold flush
  simp only
  split
  · exact andThen_mf (emitStored_mf e (buildTables w)) fun _ h => h
  · exact andThen_mf (putFields_mf _ (buildTables w)) fun _ h => h

theorem flushIfFull_mf (e : Source) (w : Work) : (flushIfFull e w).work.mf = w.mf := by
  unfold flushIfFull
  split
  · exact flush_mf e w
  · rfl

theorem putChar_mf (e : Source) (b : Byte) (w : Work) : (putChar e b w).work.mf = w.mf := flushIfFull_mf e _

theorem putLenDist_mf (e : Source) (len d : Nat) (w : Work) : (putLenDist e len d w).work.mf = w.mf :=
  flushIfFull_mf e _

@[simp] theorem insertPos_p (e : Source) (q : Nat) (w : Work) : (insertPos e q w).mf.p = w.mf.p := by
  unfold insertPos
  simp only
  split <;> rfl

@[simp] theorem insertPos_cur (e : Source) (q : Nat) (w : Work) : (insertPos e q w).mf.cur = w.mf.cur := by
  unfold insertPos
  simp only
  split <;> rfl

theorem insertUpTo_p (e : Source) (stop k : Nat) (w : Work) : (insertUpTo e stop k w).mf.p = w.mf.p := by
  induction k generalizing w with
  | zero => rfl
  | succ k ih =>
    rw [insertUpTo]
    split
    · rw [ih, insertPos_p]
    · rfl

/-! The current match. -/

/-- The work with another scan position and current match. -/
def markScan (p : Word) (c : Cur) (w : Work) : Work := { w with mf := { w.mf with p := p, cur := c } }

theorem findCur_eq (e : Source) (q : Nat) (w : Work) :
    findCur e q w = markScan w.mf.p (curOf (find e q w).1) (insertPos e q w) := by
  simp only [findCur, find_work, markScan]
  rw [insertPos_p]

/-- A match at `p`, within the source and the longest match. -/
abbrev MatchAt (e : Source) (p : Nat) (m : Nat × Nat) : Prop := RealMatch e p (min 17010 (e.n - p)) m

/-- The current match, if there is one, is a real one at `p`. -/
def RealCur (e : Source) (p : Nat) (c : Cur) : Prop := c.present = true → MatchAt e p (c.len.toNat, c.dist.toNat)

theorem MatchAt.three_le {e : Source} {p : Nat} {m : Nat × Nat} (h : MatchAt e p m) : 3 ≤ m.1 := by
  rcases (accepts_iff _ _).mp h.accepted with h | ⟨h, _⟩ | ⟨h, _⟩ <;> omega

theorem realCur_find {e : Source} {q : Nat} {w : Work} : RealCur e q (curOf (find e q w).1) := by
  cases h : (find e q w).1 with
  | none => exact fun h => by cases h
  | some m =>
    obtain ⟨len, d⟩ := m
    have hm := find_real h
    have hlen : len ≤ 17010 := hm.len_le.trans (Nat.min_le_left _ _)
    have hd : d ≤ 524288 := hm.dist_le_window
    intro _
    simpa only [curOf, BitVec.toNat_ofNat, Nat.mod_eq_of_lt (show len < 2 ^ 15 by omega),
      Nat.mod_eq_of_lt (show d < 2 ^ 20 by omega)] using hm

/-! The walk of the scan. -/

/-- A relation of two works at a source position that every operation of the scan keeps. The position is that of the next byte
to buffer; the relation does not look at the scan's own registers. -/
structure ScanRel (e e' : Source) (R : Nat → Work → Work → Prop) (N : Work → Work → Prop) : Prop where
  n_eq : e'.n = e.n
  small : e.n < 2 ^ 31
  mark : ∀ {p w w'} (a : Word) (c : Cur), R p w w' → R p (markScan a c w) (markScan a c w')
  insert : ∀ {p w w'} (q : Nat), R p w w' → R p (insertPos e q w) (insertPos e' q w')
  found : ∀ {p w w'} (q : Nat), R p w w' → (find e' q w').1 = (find e q w).1
  literal : ∀ {p w w'}, R p w w' → p < e.n → RunRel (R (p + 1)) N (putChar e (e.src p) w) (putChar e' (e'.src p) w')
  copy : ∀ {p w w' len d}, R p w w' → MatchAt e p (len, d) →
    RunRel (R (p + len)) N (putLenDist e len d w) (putLenDist e' len d w')

/-- Two related works with the same scan registers. -/
structure Paired (R : Nat → Work → Work → Prop) (p : Nat) (w w' : Work) : Prop where
  rel : R p w w'
  p_eq : w'.mf.p = w.mf.p
  cur_eq : w'.mf.cur = w.mf.cur
  ins_eq : w'.mf.ins = w.mf.ins

/-- Two related works at the head of the scan's loop. -/
structure AtHead (e : Source) (R : Nat → Work → Work → Prop) (w w' : Work) : Prop where
  paired : Paired R w.mf.p.toNat w w'
  le : w.mf.p.toNat ≤ e.n
  cur : w.mf.p.toNat < e.n → RealCur e w.mf.p.toNat w.mf.cur

section Walk

variable {e e' : Source} {R : Nat → Work → Work → Prop} {N : Work → Work → Prop} (hR : ScanRel e e' R N) {p : Nat} {w w' : Work}

theorem Paired.of_rel {q : Nat} {v v' : Work} (h : Paired R p w w') (hr : R q v v') (hv : v.mf = w.mf) (hv' : v'.mf = w'.mf) :
    Paired R q v v' :=
  ⟨hr, by rw [hv, hv']; exact h.p_eq, by rw [hv, hv']; exact h.cur_eq, by rw [hv, hv']; exact h.ins_eq⟩

include hR

theorem ScanRel.insertPos (h : Paired R p w w') (q : Nat) : Paired R p (insertPos e q w) (insertPos e' q w') :=
  ⟨hR.insert q h.rel, by simpa using h.p_eq, by simpa using h.cur_eq, by simp⟩

theorem ScanRel.insertUpTo (h : Paired R p w w') (stop k : Nat) :
    Paired R p (insertUpTo e stop k w) (insertUpTo e' stop k w') := by
  induction k generalizing w w' with
  | zero => exact h
  | succ k ih =>
    simp only [Machine.insertUpTo, h.ins_eq]
    split
    · exact ih (hR.insertPos h _)
    · exact h

theorem ScanRel.advance (h : Paired R p w w') (k : Nat) : Paired R p (advance k w) (advance k w') := by
  refine ⟨?_, congrArg (· + BitVec.ofNat 32 k) h.p_eq, h.cur_eq, h.ins_eq⟩
  have hm := hR.mark (w.mf.p + BitVec.ofNat 32 k) w.mf.cur h.rel
  have hw' : markScan (w.mf.p + BitVec.ofNat 32 k) w.mf.cur w' = Machine.advance k w' := by
    rw [← h.p_eq, ← h.cur_eq]; rfl
  rwa [hw'] at hm

theorem ScanRel.findCur (h : Paired R w.mf.p.toNat w w') (hle : w.mf.p.toNat ≤ e.n) :
    AtHead e R (findCur e w.mf.p.toNat w) (findCur e' w.mf.p.toNat w') := by
  have hins := hR.insertPos h w.mf.p.toNat
  rw [findCur_eq, findCur_eq, hR.found _ h.rel, h.p_eq]
  exact ⟨⟨hR.mark _ _ hins.rel, rfl, rfl, hins.ins_eq⟩, hle, fun _ => realCur_find⟩

/-- The step to the next position, and the search there (R410). -/
theorem ScanRel.findNext {k : Nat} (h : Paired R (w.mf.p.toNat + k) w w') (hle : w.mf.p.toNat + k ≤ e.n) :
    AtHead e R (findNext e (Machine.advance k w)) (findNext e' (Machine.advance k w')) ∧
      (findNext e (Machine.advance k w)).mf.p.toNat = w.mf.p.toNat + k := by
  have hn := hR.small
  have hp : (Machine.advance k w).mf.p.toNat = w.mf.p.toNat + k := by
    simp only [Machine.advance, BitVec.toNat_add, BitVec.toNat_ofNat]
    omega
  have ha := hR.advance h k
  rw [← hp] at ha
  simp only [Machine.findNext, ha.p_eq, hR.n_eq]
  split
  · have hf := hR.findCur ha (by omega)
    refine ⟨hf, ?_⟩
    rw [← hp]
    simp only [Machine.findCur, find_work, insertPos_p]
  · exact ⟨⟨ha, by omega, fun hlt => absurd hlt ‹_›⟩, hp⟩

theorem ScanRel.lazyProbe (k : Nat) (h : AtHead e R w w') (hc : w.mf.cur.present = true) (hlt : w.mf.p.toNat < e.n) :
    RunRel (fun v v' => AtHead e R v v' ∧ v.mf.cur.present = true ∧ v.mf.p.toNat < e.n ∧ w.mf.p.toNat ≤ v.mf.p.toNat) N
      (lazyProbe e k w) (lazyProbe e' k w') := by
  induction k generalizing w w' with
  | zero => exact ⟨h, hc, hlt, le_rfl⟩
  | succ k ih =>
    have hn := hR.small
    simp only [Machine.lazyProbe, h.paired.p_eq, h.paired.cur_eq, hR.n_eq, hR.found _ h.paired.rel, find_work]
    split
    next hgo =>
      have hi := hR.insertPos h.paired (w.mf.p.toNat + 1)
      have hstop : AtHead e R (Machine.insertPos e (w.mf.p.toNat + 1) w) (Machine.insertPos e' (w.mf.p.toNat + 1) w') :=
        ⟨by rw [insertPos_p]; exact hi, by rw [insertPos_p]; exact h.le, by rw [insertPos_p, insertPos_cur]; exact h.cur⟩
      have hkeep : RunRel (fun v v' => AtHead e R v v' ∧ v.mf.cur.present = true ∧ v.mf.p.toNat < e.n ∧
          w.mf.p.toNat ≤ v.mf.p.toNat) N (.ok (Machine.insertPos e (w.mf.p.toNat + 1) w))
          (.ok (Machine.insertPos e' (w.mf.p.toNat + 1) w')) :=
        ⟨hstop, by rw [insertPos_cur]; exact hc, by rw [insertPos_p]; exact hlt, by rw [insertPos_p]⟩
      split
      next => exact hkeep
      next len d hfind =>
        split
        next =>
          refine (hR.literal hi.rel hlt).andThen fun v v' hv hv' hr => ?_
          have hvm := mf_of_ok (putChar_mf e _ _) hv
          have hvm' := mf_of_ok (putChar_mf e' _ _) hv'
          have hp : (Machine.advance 1 v).mf.p.toNat = w.mf.p.toNat + 1 := by
            simp only [Machine.advance, hvm, insertPos_p, BitVec.toNat_add, BitVec.toNat_ofNat]
            omega
          have hpair : Paired R (Machine.advance 1 v).mf.p.toNat (Machine.advance 1 v) (Machine.advance 1 v') := by
            rw [hp]
            exact hR.advance (hi.of_rel hr hvm hvm') 1
          have hmark := hR.mark (Machine.advance 1 v).mf.p (curOf (some (len, d))) hpair.rel
          have hcur : RealCur e (w.mf.p.toNat + 1) (curOf (some (len, d))) := by
            rw [← hfind]; exact realCur_find
          have hnext := ih (w := markScan (Machine.advance 1 v).mf.p (curOf (some (len, d))) (Machine.advance 1 v))
            (w' := markScan (Machine.advance 1 v).mf.p (curOf (some (len, d))) (Machine.advance 1 v'))
            ⟨⟨hmark, rfl, rfl, hpair.ins_eq⟩, show (Machine.advance 1 v).mf.p.toNat ≤ e.n by rw [hp]; omega,
              fun _ => by show RealCur e (Machine.advance 1 v).mf.p.toNat _; rw [hp]; exact hcur⟩ rfl
            (show (Machine.advance 1 v).mf.p.toNat < e.n by rw [hp]; omega)
          have hsame : markScan (Machine.advance 1 v).mf.p (curOf (some (len, d))) (Machine.advance 1 v') =
              { Machine.advance 1 v' with mf := { (Machine.advance 1 v').mf with cur := curOf (some (len, d)) } } := by
            rw [← hpair.p_eq]; rfl
          rw [hsame] at hnext
          refine hnext.mono fun u u' hu => ?_
          obtain ⟨h1, h2, h3, h4⟩ := hu
          have h5 : (Machine.advance 1 v).mf.p.toNat ≤ u.mf.p.toNat := h4
          exact ⟨h1, h2, h3, by omega⟩
        next => exact hkeep
    next => exact ⟨h, hc, hlt, le_rfl⟩

/-- One round of the scan's loop buffers at least one byte (R410). -/
theorem ScanRel.scanOnce (h : AtHead e R w w') (hlt : w.mf.p.toNat < e.n) :
    RunRel (fun v v' => AtHead e R v v' ∧ w.mf.p.toNat < v.mf.p.toNat) N (scanOnce e w) (scanOnce e' w') := by
  unfold Machine.scanOnce
  rw [h.paired.cur_eq, h.paired.p_eq]
  split
  next =>
    refine (hR.literal h.paired.rel hlt).andThen fun v v' hv hv' hr => ?_
    have hvm := mf_of_ok (putChar_mf e _ _) hv
    have hvm' := mf_of_ok (putChar_mf e' _ _) hv'
    have hpair : Paired R (v.mf.p.toNat + 1) v v' := by
      rw [hvm]
      exact h.paired.of_rel hr hvm hvm'
    obtain ⟨hnext, hp⟩ := hR.findNext hpair (by rw [hvm]; omega)
    exact ⟨hnext, by rw [hp, hvm]; omega⟩
  next hc =>
    rw [hR.n_eq]
    refine (hR.lazyProbe e.n h (by simpa using hc) hlt).andThen fun u u' _ _ hu => ?_
    obtain ⟨hu, huc, hult, hle⟩ := hu
    have hm := hu.cur hult huc
    have h3 : 3 ≤ u.mf.cur.len.toNat := hm.three_le
    have hlim : u.mf.cur.len.toNat ≤ min 17010 (e.n - u.mf.p.toNat) := hm.len_le
    rw [hu.paired.cur_eq]
    refine (hR.copy hu.paired.rel hm).andThen fun v v' hv hv' hr => ?_
    have hvm := mf_of_ok (putLenDist_mf e _ _ _) hv
    have hvm' := mf_of_ok (putLenDist_mf e' _ _ _) hv'
    have hpair : Paired R (v.mf.p.toNat + u.mf.cur.len.toNat) v v' := by
      rw [hvm]
      exact hu.paired.of_rel hr hvm hvm'
    rw [hpair.p_eq]
    have hins := hR.insertUpTo hpair (v.mf.p.toNat + u.mf.cur.len.toNat) u.mf.cur.len.toNat
    have hstay := insertUpTo_p e (v.mf.p.toNat + u.mf.cur.len.toNat) u.mf.cur.len.toNat v
    generalize Machine.insertUpTo e (v.mf.p.toNat + u.mf.cur.len.toNat) u.mf.cur.len.toNat v = x at hins hstay ⊢
    generalize Machine.insertUpTo e' (v.mf.p.toNat + u.mf.cur.len.toNat) u.mf.cur.len.toNat v' = x' at hins ⊢
    rw [← hstay] at hins
    obtain ⟨hnext, hp⟩ := hR.findNext hins (by rw [hstay, hvm]; omega)
    exact ⟨hnext, by rw [hp, hstay, hvm]; omega⟩

theorem ScanRel.scanLoop (k : Nat) (h : AtHead e R w w') :
    RunRel (fun v v' => AtHead e R v v' ∧ (e.n ≤ w.mf.p.toNat + k → v.mf.p.toNat = e.n)) N
      (scanLoop e k w) (scanLoop e' k w') := by
  induction k generalizing w w' with
  | zero => exact ⟨h, fun hn => le_antisymm h.le hn⟩
  | succ k ih =>
    simp only [Machine.scanLoop, h.paired.p_eq, hR.n_eq]
    split
    next hlt =>
      refine (hR.scanOnce h hlt).andThen fun v v' _ _ hv => ?_
      obtain ⟨hv, hp⟩ := hv
      refine (ih hv).mono fun u u' hu => ?_
      obtain ⟨hu, hend⟩ := hu
      exact ⟨hu, fun hn => hend (by omega)⟩
    next hlt => exact ⟨h, fun _ => le_antisymm h.le (Nat.not_lt.mp hlt)⟩

/-- The scan ends with the whole source buffered. -/
theorem ScanRel.scan {B : Work → Work → Prop} (hp : w.mf.p = 0) (h : Paired R 0 w w')
    (hflush : ∀ v v', R e.n v v' → RunRel B N (flushFinal e v) (flushFinal e' v')) :
    RunRel B N (scan e w) (scan e' w') := by
  have hz : w.mf.p.toNat = 0 := by rw [hp]; rfl
  have hhead : AtHead e R (Machine.findCur e 0 w) (Machine.findCur e' 0 w') := by
    rw [← hz]
    exact hR.findCur (by rwa [hz]) (by rw [hz]; exact Nat.zero_le _)
  unfold Machine.scan
  rw [hR.n_eq]
  refine (hR.scanLoop e.n hhead).andThen fun v v' _ _ hv => ?_
  obtain ⟨hv, hend⟩ := hv
  have hn := hend (Nat.le_add_left _ _)
  exact hflush v v' (hn ▸ hv.paired.rel)

end Walk

end Sys2Proof.Proofs

/-! PROOFS. Two runs of the Huffman attempt over the same source bytes (49_host_commands.md R809, 70_reset_and_hazards.md R954):
they code the same payload, whatever links, tables and memory the two states hold from before. -/

namespace Sys2Proof.Proofs

open Sys2Proof Sys2Proof.Machine Sys2Proof.Laws

/-! Sources and links. -/

/-- Two sources of the same length with the same bytes. -/
structure SourcesAgree (e e' : Source) : Prop where
  n_eq : e'.n = e.n
  src_eq : ∀ i, i < e.n → e'.src i = e.src i

/-- Two links that a walk takes alike: both invalid, or the same position, whose own link is in a slot of `S`. -/
def LinkAlike (S : Nat → Prop) (mask : Nat) (l l' : Link) : Prop :=
  l'.valid = l.valid ∧ (l.valid = true → l'.pos = l.pos ∧ S (l.pos.toNat &&& mask))

/-- The slots of `S` hold links that a walk takes alike. -/
def ChainAlike (S : Nat → Prop) (mask : Nat) (chain chain' : List (Nat × Link)) : Prop :=
  ∀ i, S i → LinkAlike S mask (linkGet chain i) (linkGet chain' i)

theorem LinkAlike.mono {S T : Nat → Prop} {mask : Nat} {l l' : Link} (h : LinkAlike S mask l l') (hST : ∀ i, S i → T i) :
    LinkAlike T mask l l' := by
  obtain ⟨hv, hp⟩ := h
  exact ⟨hv, fun hl => ⟨(hp hl).1, hST _ (hp hl).2⟩⟩

theorem hashAt_le (e : Source) (pr : Config.Profile) (q : Nat) : hashAt e pr q ≤ pr.hashMask := Nat.and_le_right

section Search

variable {e e' : Source} (he : SourcesAgree e e')

include he

theorem hashAt_eq (pr : Config.Profile) {q : Nat} (hq : q + 3 ≤ e.n) : hashAt e' pr q = hashAt e pr q := by
  unfold hashAt
  rw [he.src_eq q (by omega), he.src_eq (q + 1) (by omega), he.src_eq (q + 2) (by omega)]

theorem matchLenFrom_eq {c q : Nat} (hcq : c < q) (k len : Nat) (hk : q + len + k ≤ e.n) :
    matchLenFrom e' c q k len = matchLenFrom e c q k len := by
  induction k generalizing len with
  | zero => rfl
  | succ k ih =>
    rw [matchLenFrom, matchLenFrom, he.src_eq (c + len) (by omega), he.src_eq (q + len) (by omega), ih (len + 1) (by omega)]

theorem walk_eq {S : Nat → Prop} {pr : Config.Profile} {chain chain' : List (Nat × Link)} {q limit : Nat}
    (hc : ChainAlike S pr.chainMask chain chain') (hlim : q + limit ≤ e.n) (k : Nat) {cand cand' : Link}
    (hl : LinkAlike S pr.chainMask cand cand') (best : Option (Nat × Nat)) :
    walk e' pr chain' q limit k cand' best = walk e pr chain q limit k cand best := by
  induction k generalizing cand cand' best with
  | zero => rfl
  | succ k ih =>
    obtain ⟨hv, hp⟩ := hl
    by_cases hcand : cand.valid = true
    · obtain ⟨hpos, hS⟩ := hp hcand
      simp only [walk, hv, hpos, hcand, ih (hc _ hS)]
      by_cases hd : q - cand.pos.toNat < Config.minDist
      · simp only [hd, ↓reduceIte]
      · have hlt : cand.pos.toNat < q := by
          have h3 : (3 : Nat) = Config.minDist := rfl
          omega
        have hlen : matchLen e' cand.pos.toNat q limit = matchLen e cand.pos.toNat q limit :=
          matchLenFrom_eq he hlt limit 0 (by omega)
        simp only [hlen]
    · simp only [walk, hv, Bool.eq_false_iff.mpr hcand, ↓reduceIte]

end Search

/-! The insertion of a position makes its slot one that a walk can reach. -/

/-- The slots of `S` and one more. -/
def withSlot (S : Nat → Prop) (i : Nat) : Nat → Prop := fun j => S j ∨ j = i

/-- The heads up to the hash mask are taken alike. -/
def HeadsAlike (S : Nat → Prop) (pr : Config.Profile) (head head' : List (Nat × Link)) : Prop :=
  ∀ i, i ≤ pr.hashMask → LinkAlike S pr.chainMask (linkGet head i) (linkGet head' i)

/-- Two match finders whose searches answer alike: the heads, and the slots that a walk from them can reach. -/
structure FinderAlike (m m' : MatchFinder) : Prop where
  profile_eq : m'.profile = m.profile
  links : ∃ S, HeadsAlike S m.profile m.head m'.head ∧ ChainAlike S m.profile.chainMask m.chain m'.chain

@[simp] theorem insertPos_profile (e : Source) (q : Nat) (w : Work) : (insertPos e q w).mf.profile = w.mf.profile := by
  unfold insertPos
  simp only
  split <;> rfl

section Insert

variable {e e' : Source} (he : SourcesAgree e e') {w w' : Work} {q : Nat} {S : Nat → Prop}
  (hpr : w'.mf.profile = w.mf.profile) (hq : q + 3 ≤ e.n) (hhead : HeadsAlike S w.mf.profile w.mf.head w'.mf.head)

include he hpr hq hhead

theorem insertPos_headsAlike (hn : e.n < 2 ^ 31) :
    HeadsAlike (withSlot S (q &&& w.mf.profile.chainMask)) w.mf.profile (insertPos e q w).mf.head (insertPos e' q w').mf.head := by
  intro i hi
  have hpos : (BitVec.ofNat 32 q).toNat = q := by rw [BitVec.toNat_ofNat]; omega
  rw [insertPos_head e q w hq, insertPos_head e' q w' (he.n_eq ▸ hq), hpr, hashAt_eq he _ hq, linkGet_linkSet, linkGet_linkSet]
  split
  · exact ⟨rfl, fun _ => ⟨rfl, .inr (by rw [hpos])⟩⟩
  · exact (hhead i hi).mono fun _ => .inl

theorem insertPos_chainAlike (hchain : ChainAlike S w.mf.profile.chainMask w.mf.chain w'.mf.chain) :
    ChainAlike (withSlot S (q &&& w.mf.profile.chainMask)) w.mf.profile.chainMask (insertPos e q w).mf.chain
      (insertPos e' q w').mf.chain := by
  intro i hi
  rw [insertPos_chain e q w hq, insertPos_chain e' q w' (he.n_eq ▸ hq), hpr, hashAt_eq he _ hq, linkGet_linkSet, linkGet_linkSet]
  split
  next => exact (hhead _ (hashAt_le _ _ _)).mono fun _ => .inl
  next hne => exact (hchain i (hi.resolve_right hne)).mono fun _ => .inl

end Insert

theorem insertPos_alike {e e' : Source} (he : SourcesAgree e e') (hn : e.n < 2 ^ 31) {w w' : Work} (q : Nat)
    (h : FinderAlike w.mf w'.mf) : FinderAlike (insertPos e q w).mf (insertPos e' q w').mf := by
  obtain ⟨hpr, S, hhead, hchain⟩ := h
  refine ⟨by simpa using hpr, ?_⟩
  rw [insertPos_profile]
  by_cases hq : q + 3 ≤ e.n
  · exact ⟨_, insertPos_headsAlike he hpr hq hhead hn, insertPos_chainAlike he hpr hq hhead hchain⟩
  · refine ⟨S, ?_⟩
    rw [insertPos_head_of_end e q w (by omega), insertPos_chain_of_end e q w (by omega),
      insertPos_head_of_end e' q w' (by rw [he.n_eq]; omega), insertPos_chain_of_end e' q w' (by rw [he.n_eq]; omega)]
    exact ⟨hhead, hchain⟩

theorem find_eq {e e' : Source} (he : SourcesAgree e e') {w w' : Work} (q : Nat) (h : FinderAlike w.mf w'.mf) :
    (find e' q w').1 = (find e q w).1 := by
  obtain ⟨hpr, S, hhead, hchain⟩ := h
  unfold find
  rw [he.n_eq]
  split
  next => rfl
  next hq =>
    have hq : q + 3 ≤ e.n := by omega
    have hlink := (hhead (hashAt e w.mf.profile q) (hashAt_le _ _ _)).mono
      (T := withSlot S (q &&& w.mf.profile.chainMask)) fun _ => .inl
    simp only [hpr, hashAt_eq he _ hq]
    exact walk_eq he (insertPos_chainAlike he hpr hq hhead hchain) (by omega) _ hlink none

/-! The work with one more symbol buffered (44_block_encoder.md R550, R551). -/

/-- A literal buffered. -/
def bufferByte (b : Byte) (w : Work) : Work :=
  { w with buf := { w.buf.push (.literal b) with span := w.buf.span + 1, litFreq := bumpFreq w.buf.litFreq b.toNat } }

/-- A match of `len` bytes buffered: its length code, its distance code and the cache after it. -/
def bufferMatch (len : Nat) (lc : Nat × Nat) (dc : (Nat × Nat) × Cache) (w : Work) : Work :=
  { w with
    cache := dc.2
    buf := { w.buf.push (.copy (BitVec.ofNat 6 lc.1) (BitVec.ofNat 14 lc.2) (BitVec.ofNat 6 dc.1.1) (BitVec.ofNat 17 dc.1.2)) with
      span := w.buf.span + BitVec.ofNat 32 len
      litFreq := bumpFreq w.buf.litFreq (256 + lc.1)
      distFreq := bumpFreq w.buf.distFreq dc.1.1 } }

theorem putChar_eq (e : Source) (b : Byte) (w : Work) : putChar e b w = flushIfFull e (bufferByte b w) := rfl

theorem putLenDist_eq (e : Source) (len d : Nat) (w : Work) :
    putLenDist e len d w = flushIfFull e (bufferMatch len (lenCode len) (mapDist w.cache d) w) := rfl

/-! The writer. -/

/-- With `exact` the two works differ in memory only. -/
def SameButMemory (exact : Prop) (w w' : Work) : Prop := exact → ∃ m, w' = { w with mem := m }

/-- Two works of the same attempt: the first in write mode, the second in either mode. The source is buffered up to `p`. -/
structure Alike (exact : Prop) (p : Nat) (w w' : Work) : Prop where
  pos : w.buf.blockStart.toNat + w.buf.span.toNat = p
  buf_eq : ∃ c, w'.buf = { w.buf with clFreq := c }
  cache_eq : w'.cache = w.cache
  snap_eq : w'.snap = w.snap
  finder : FinderAlike w.mf w'.mf
  wr_eq : w'.wr = { w.wr with base := w'.wr.base, mode := w'.wr.mode }
  writes : w.wr.mode = .write
  payload : w'.wr.mode = .write → ∀ j, j < 4 * w.wr.words.toNat →
    w'.mem.read (w'.wr.base + BitVec.ofNat 32 j) = w.mem.read (w.wr.base + BitVec.ofNat 32 j)
  same : SameButMemory exact w w'

/-- Two works alike where the attempt ran out of space. -/
def StoppedAlike (exact : Prop) (w w' : Work) : Prop := ∃ p, Alike exact p w w'

namespace Alike

variable {exact : Prop} {p : Nat} {w w' : Work}

theorem cap_eq (h : Alike exact p w w') : w'.wr.cap = w.wr.cap := by rw [h.wr_eq]

theorem words_eq (h : Alike exact p w w') : w'.wr.words = w.wr.words := by rw [h.wr_eq]

theorem wwords_eq (h : Alike exact p w w') : w'.wr.wwords = w.wr.wwords := by rw [h.wr_eq]; rfl

theorem acc_eq (h : Alike exact p w w') : w'.wr.acc = w.wr.acc := by rw [h.wr_eq]

theorem k_eq (h : Alike exact p w w') : w'.wr.k = w.wr.k := by rw [h.wr_eq]

theorem span_eq (h : Alike exact p w w') : w'.buf.span = w.buf.span := by obtain ⟨c, hb⟩ := h.buf_eq; rw [hb]

theorem blockStart_eq (h : Alike exact p w w') : w'.buf.blockStart = w.buf.blockStart := by
  obtain ⟨c, hb⟩ := h.buf_eq; rw [hb]

theorem nsym_eq (h : Alike exact p w w') : w'.buf.nsym = w.buf.nsym := by obtain ⟨c, hb⟩ := h.buf_eq; rw [hb]

theorem symbuf_eq (h : Alike exact p w w') : w'.buf.symbuf = w.buf.symbuf := by obtain ⟨c, hb⟩ := h.buf_eq; rw [hb]

theorem litFreq_eq (h : Alike exact p w w') : w'.buf.litFreq = w.buf.litFreq := by obtain ⟨c, hb⟩ := h.buf_eq; rw [hb]

theorem distFreq_eq (h : Alike exact p w w') : w'.buf.distFreq = w.buf.distFreq := by obtain ⟨c, hb⟩ := h.buf_eq; rw [hb]

/-- The same pending bits in both writers. -/
theorem pending (h : Alike exact p w w') (acc : Word) (k : BitVec 5) :
    Alike exact p { w with wr := { w.wr with acc := acc, k := k } } { w' with wr := { w'.wr with acc := acc, k := k } } :=
  { h with
    wr_eq := by rw [h.wr_eq]
    same := fun hx => by obtain ⟨m, rfl⟩ := h.same hx; exact ⟨m, rfl⟩ }

/-- Nothing but the scan's part of the state changes, in the same way. -/
theorem finderChange {m m' : MatchFinder} (h : Alike exact p w w') (hm : FinderAlike m m')
    (hs : SameButMemory exact { w with mf := m } { w' with mf := m' }) :
    Alike exact p { w with mf := m } { w' with mf := m' } :=
  { h with finder := hm, same := hs }

/-- Emission of a word (45_bit_writer.md R602). -/
theorem emitWord (h : Alike exact p w w') (v : Word) :
    RunRel (Alike exact p) (StoppedAlike exact) (emitWord v w) (emitWord v w') := by
  unfold Machine.emitWord
  rw [h.cap_eq, h.wwords_eq]
  split
  · exact ⟨p, h⟩
  next hfit =>
    have hcap := w.wr.cap.isLt
    rw [wwords_toNat] at hfit
    have hone : (1 : BitVec 30).toNat = 1 := rfl
    have hnext : (w.wr.words + 1).toNat = w.wr.words.toNat + 1 := by
      rw [BitVec.toNat_add, hone]
      omega
    simp only [h.writes, wwords_toNat]
    refine { h with wr_eq := ?_, writes := rfl, payload := fun hmode j hj => ?_, same := fun hx => ?_ }
    · rw [h.wr_eq]
    · simp only [hnext] at hj
      simp only at hmode ⊢
      rw [hmode]
      by_cases hold : j < 4 * w.wr.words.toNat
      · rw [read_writeWord_other _ _ _ _ fun i hi => ?_, read_writeWord_other _ _ _ _ fun i hi => ?_]
        · exact h.payload hmode j hold
        all_goals
          rw [BitVec.add_assoc, ← BitVec.ofNat_add]
          exact dst_byte_ne (by omega) (by omega) (by omega)
      · obtain ⟨i, rfl⟩ : ∃ i, j = 4 * w.wr.words.toNat + i := ⟨j - 4 * w.wr.words.toNat, by omega⟩
        rw [BitVec.ofNat_add, ← BitVec.add_assoc, ← BitVec.add_assoc, read_writeWord_same _ _ _ _ (by omega),
          read_writeWord_same _ _ _ _ (by omega)]
    · obtain ⟨m, rfl⟩ := h.same hx
      simp only [h.writes]
      exact ⟨_, rfl⟩

theorem putBits (h : Alike exact p w w') (v k : Nat) :
    RunRel (Alike exact p) (StoppedAlike exact) (putBits v k w) (putBits v k w') := by
  unfold Machine.putBits
  simp only [h.acc_eq, h.k_eq]
  split
  · exact (h.emitWord _).andThen fun u u' _ _ hu => hu.pending _ _
  · exact h.pending _ _

theorem putFields (h : Alike exact p w w') (l : List (Nat × Nat)) :
    RunRel (Alike exact p) (StoppedAlike exact) (putFields l w) (putFields l w') := by
  induction l generalizing w w' with
  | nil => exact h
  | cons f rest ih => exact (h.putBits f.1 f.2).andThen fun u u' _ _ hu => ih hu

theorem alignWriter (h : Alike exact p w w') :
    RunRel (Alike exact p) (StoppedAlike exact) (alignWriter w) (alignWriter w') := by
  unfold Machine.alignWriter
  rw [h.k_eq]
  exact h.putBits _ _

theorem finalFlush (h : Alike exact p w w') :
    RunRel (Alike exact p) (StoppedAlike exact) (finalFlush w) (finalFlush w') := by
  unfold Machine.finalFlush
  rw [h.k_eq, h.acc_eq]
  split
  · exact (h.emitWord _).andThen fun u u' _ _ hu => hu.pending _ _
  · exact h

/-! Blocks (44_block_encoder.md R552). -/

theorem buildTables (h : Alike exact p w w') : Alike exact p (buildTables w) (buildTables w') := by
  obtain ⟨c, hbuf⟩ := h.buf_eq
  refine { h with buf_eq := ⟨(Machine.buildTables w').buf.clFreq, ?_⟩, same := fun hx => ?_ }
  · simp only [Machine.buildTables, hbuf]
  · obtain ⟨m, rfl⟩ := h.same hx
    exact ⟨m, rfl⟩

theorem buildTables_tab (h : Alike exact p w w') : (Machine.buildTables w').tab = (Machine.buildTables w).tab := by
  obtain ⟨c, hbuf⟩ := h.buf_eq
  simp only [Machine.buildTables, hbuf]

theorem choosesStored_eq (h : Alike exact p w w') (htab : w'.tab = w.tab) : choosesStored w' = choosesStored w := by
  unfold choosesStored storedCost compressedCost Writer.position
  rw [h.wwords_eq, h.k_eq, htab, h.span_eq, h.litFreq_eq, h.distFreq_eq]

theorem emitCompressed (h : Alike exact p w w') (htab : w'.tab = w.tab) :
    RunRel (Alike exact p) (StoppedAlike exact) (emitCompressed w) (emitCompressed w') := by
  have hfields : compressedFields w' = compressedFields w := by
    unfold compressedFields
    rw [htab, h.symbuf_eq, h.nsym_eq]
  unfold Machine.emitCompressed
  rw [hfields]
  exact h.putFields _

theorem emitStored {e e' : Source} (he : SourcesAgree e e') (hp : p ≤ e.n) (h : Alike exact p w w') :
    RunRel (Alike exact p) (StoppedAlike exact) (emitStored e w) (emitStored e' w') := by
  have hpos := h.pos
  have hbytes : (List.range w'.buf.span.toNat).map (fun j => ((e'.src (w'.buf.blockStart.toNat + j)).toNat, 8)) =
      (List.range w.buf.span.toNat).map (fun j => ((e.src (w.buf.blockStart.toNat + j)).toNat, 8)) := by
    rw [h.span_eq, h.blockStart_eq]
    refine List.map_congr_left fun j hj => ?_
    have hj := List.mem_range.mp hj
    rw [he.src_eq _ (by omega)]
  unfold Machine.emitStored
  rw [hbytes, h.span_eq]
  exact (h.putFields _).andThen fun u u' _ _ hu => hu.alignWriter.andThen fun v v' _ _ hv => hv.putFields _

/-- The bookkeeping between two blocks (R552, R563): the cache and the snapshot are those of either run. -/
theorem startBlock (h : Alike exact p w w') (hp : p < 2 ^ 32) {c c' d d' : Cache} (hc : c' = c) (hd : d' = d) :
    Alike exact p (startBlock { w with cache := c, snap := d }) (startBlock { w' with cache := c', snap := d' }) := by
  subst hc hd
  obtain ⟨x, hbuf⟩ := h.buf_eq
  have hpos := h.pos
  refine { h with pos := ?_, buf_eq := ⟨x, ?_⟩, cache_eq := rfl, snap_eq := rfl, same := fun hx => ?_ }
  · have hzero : (0 : Word).toNat = 0 := rfl
    simp only [Machine.startBlock, BitVec.toNat_add, hzero]
    omega
  · simp only [Machine.startBlock, hbuf]
  · obtain ⟨m, rfl⟩ := h.same hx
    exact ⟨m, rfl⟩

theorem flush {e e' : Source} (he : SourcesAgree e e') (hn : e.n < 2 ^ 31) (hp : p ≤ e.n) (h : Alike exact p w w') :
    RunRel (Alike exact p) (StoppedAlike exact) (flush e w) (flush e' w') := by
  have hb := h.buildTables
  have htab := h.buildTables_tab
  unfold Machine.flush
  simp only [hb.choosesStored_eq htab]
  split
  · refine (hb.emitStored he hp).andThen fun u u' _ _ hu => ?_
    exact hu.startBlock (by omega) hu.snap_eq hu.snap_eq
  · refine (hb.emitCompressed htab).andThen fun u u' _ _ hu => ?_
    exact hu.startBlock (by omega) hu.cache_eq hu.cache_eq

theorem flushIfFull {e e' : Source} (he : SourcesAgree e e') (hn : e.n < 2 ^ 31) (hp : p ≤ e.n) (h : Alike exact p w w') :
    RunRel (Alike exact p) (StoppedAlike exact) (flushIfFull e w) (flushIfFull e' w') := by
  unfold Machine.flushIfFull
  rw [h.nsym_eq]
  split
  · exact h.flush he hn hp
  · exact h

theorem flushFinal {e e' : Source} (he : SourcesAgree e e') (hn : e.n < 2 ^ 31) (hp : p ≤ e.n) (h : Alike exact p w w') :
    RunRel (Alike exact p) (StoppedAlike exact) (flushFinal e w) (flushFinal e' w') := by
  unfold Machine.flushFinal
  rw [h.nsym_eq]
  split
  · exact h.flush he hn hp
  · exact h

/-! Buffering (R550, R551). -/

theorem putChar {e e' : Source} (he : SourcesAgree e e') (hn : e.n < 2 ^ 31) (hp : p < e.n) (h : Alike exact p w w') :
    RunRel (Alike exact (p + 1)) (StoppedAlike exact) (putChar e (e.src p) w) (putChar e' (e'.src p) w') := by
  obtain ⟨c, hbuf⟩ := h.buf_eq
  have hpos := h.pos
  rw [he.src_eq p hp, putChar_eq, putChar_eq]
  refine Alike.flushIfFull he hn (by omega) { h with pos := ?_, buf_eq := ⟨c, ?_⟩, same := fun hx => ?_ }
  · have hone : (1 : Word).toNat = 1 := rfl
    simp only [bufferByte, SymBuffer.push, BitVec.toNat_add, hone]
    omega
  · simp only [bufferByte, SymBuffer.push, hbuf]
  · obtain ⟨m, rfl⟩ := h.same hx
    exact ⟨m, rfl⟩

theorem putLenDist {e e' : Source} (he : SourcesAgree e e') (hn : e.n < 2 ^ 31) {len d : Nat} (hlen : p + len ≤ e.n)
    (h : Alike exact p w w') :
    RunRel (Alike exact (p + len)) (StoppedAlike exact) (putLenDist e len d w) (putLenDist e' len d w') := by
  obtain ⟨c, hbuf⟩ := h.buf_eq
  have hpos := h.pos
  rw [putLenDist_eq, putLenDist_eq, h.cache_eq]
  refine Alike.flushIfFull he hn hlen
    { h with pos := ?_, buf_eq := ⟨c, ?_⟩, cache_eq := rfl, same := fun hx => ?_ }
  · simp only [bufferMatch, SymBuffer.push, BitVec.toNat_add, BitVec.toNat_ofNat]
    omega
  · simp only [bufferMatch, SymBuffer.push, hbuf]
  · obtain ⟨m, rfl⟩ := h.same hx
    exact ⟨m, rfl⟩

/-! The scan and the attempt. -/

theorem insertPos {e e' : Source} (he : SourcesAgree e e') (hn : e.n < 2 ^ 31) (h : Alike exact p w w') (q : Nat) :
    Alike exact p (insertPos e q w) (insertPos e' q w') := by
  have hf := insertPos_alike he hn q h.finder
  have hs : SameButMemory exact (Machine.insertPos e q w) (Machine.insertPos e' q w') := fun hx => by
    obtain ⟨m, rfl⟩ := h.same hx
    unfold Machine.insertPos
    rw [he.n_eq]
    simp only
    split
    next hq => exact ⟨m, by rw [hashAt_eq he _ hq]⟩
    next => exact ⟨m, rfl⟩
  obtain ⟨mf, hw⟩ := insertPos_keeps e q w
  obtain ⟨mf', hw'⟩ := insertPos_keeps e' q w'
  rw [hw, hw'] at hf hs ⊢
  exact h.finderChange hf hs

theorem scanRel {e e' : Source} (he : SourcesAgree e e') (hn : e.n < 2 ^ 31) :
    ScanRel e e' (Alike exact) (StoppedAlike exact) where
  n_eq := he.n_eq
  small := hn
  mark a c h := by
    obtain ⟨hpr, hlinks⟩ := h.finder
    refine h.finderChange ⟨hpr, hlinks⟩ fun hx => ?_
    obtain ⟨m, rfl⟩ := h.same hx
    exact ⟨m, rfl⟩
  insert q h := h.insertPos he hn q
  found q h := find_eq he q h.finder
  literal h hp := h.putChar he hn hp
  copy {p _ _ len _} h hm := by
    have hlen : len ≤ min 17010 (e.n - p) := hm.len_le
    have h3 : 3 ≤ len := hm.three_le
    exact h.putLenDist he hn (by omega)

end Alike

/-- The initialisation leaves no head that a walk takes (41_match_finder.md R400). -/
theorem initFinder_alike (pr : Config.Profile) (m m' : MatchFinder) : FinderAlike (initFinder pr m) (initFinder pr m') := by
  have hinvalid : ∀ (head : List (Nat × Link)) (i : Nat), i ≤ pr.hashMask →
      (linkGet (head.map fun h => if h.1 ≤ pr.hashMask then (h.1, { h.2 with valid := false }) else h) i).valid = false := by
    intro head i hi
    induction head with
    | nil => rfl
    | cons x rest ih =>
      by_cases hx : i = x.1
      · subst hx
        simp only [List.map_cons, if_pos hi, linkGet, ↓reduceIte]
      · rw [List.map_cons]
        split <;> simpa only [linkGet, if_neg hx] using ih
  refine ⟨rfl, fun _ => False, fun i hi => ?_, fun _ h => h.elim⟩
  exact ⟨by rw [initFinder, initFinder, hinvalid _ _ hi, hinvalid _ _ hi],
    fun hv => absurd hv (by rw [initFinder, hinvalid _ _ hi]; exact Bool.false_ne_true)⟩

/-- Two attempts over the same source bytes, the first in write mode. -/
theorem attempt_alike {exact : Prop} {s u : State} {level : Level} {mode : WMode} (he : SourcesAgree s.source u.source)
    (hn : s.lat.n.toNat < 2 ^ 31) (hx : SameButMemory exact (s.initWork level .write) (u.initWork level mode)) :
    RunRel (Alike exact s.lat.n.toNat) (StoppedAlike exact) (s.attempt level .write) (u.attempt level mode) := by
  have hlen : u.lat.n = s.lat.n := BitVec.eq_of_toNat_eq he.n_eq
  have hinit : Alike exact 0 (s.initWork level .write) (u.initWork level mode) :=
    { pos := rfl
      buf_eq := ⟨u.buf.clFreq, rfl⟩
      cache_eq := rfl
      snap_eq := rfl
      finder := initFinder_alike _ _ _
      wr_eq := by simp only [State.initWork, hlen]
      writes := rfl
      payload := fun _ j hj => absurd hj (Nat.not_lt_zero j)
      same := hx }
  have hR := Alike.scanRel (exact := exact) he hn
  refine (hR.scan rfl ⟨hinit, rfl, rfl, rfl⟩ fun v v' h => h.flushFinal he hn le_rfl).andThen fun v v' _ _ h => h.finalFlush

/-! COMPRESS and MEASURE of the same source. -/

theorem small_of_checkCompress {l : Latched} (h : l.checkCompress = none) : l.n.toNat < 2 ^ 31 := by
  unfold Latched.checkCompress at h
  have hmax : Config.maxInput = 2147483647 := rfl
  split_ifs at h
  omega

theorem sourcesAgree_of_reads {s u : State} (hn : u.lat.n = s.lat.n)
    (hb : ∀ j, j < s.lat.n.toNat → u.mem.read (u.lat.src + BitVec.ofNat 32 j) = s.mem.read (s.lat.src + BitVec.ofNat 32 j)) :
    SourcesAgree s.source u.source :=
  ⟨congrArg BitVec.toNat hn, hb⟩

theorem sameButMemory_of_false (w w' : Work) : SameButMemory False w w' := fun h => h.elim

/-- Settles O24: the two attempts signal NoSpace together and count the same words. -/
theorem measureAgreesWithCompress : Obligations.MeasureAgreesWithCompress := by
  unfold Obligations.MeasureAgreesWithCompress
  intro s u level hps hcs hpu hcu hs hu hn hb
  by_cases h4 : s.lat.n.toNat < 4
  · refine ⟨_, _, (exec_compress hps level).trans (congrArg _ (compressWork_of_short hcs hs h4)),
      (exec_measure hpu level).trans (congrArg _ (measureWork_of_short hcu hu (by rwa [hn]))), ?_, rfl, rfl, rfl⟩
    exact congrArg (· + 4) hn
  · have h4u : 4 ≤ u.lat.n.toNat := by rw [hn]; omega
    have hmem := attempt_measure_mem u level
    have hrun := attempt_alike (exact := False) (level := level) (mode := .measure) (sourcesAgree_of_reads hn hb)
      (small_of_checkCompress hs) (sameButMemory_of_false _ _)
    rcases hrun.cases with ⟨w, v, hc, hm, halike⟩ | ⟨w, v, hc, hm, _⟩
    · rw [hm] at hmem
      refine ⟨_, _, (exec_compress hps level).trans (congrArg _ (compressWork_of_ok hcs hs (by omega) hc)),
        (exec_measure hpu level).trans (congrArg _ (measureWork_of_ok hcu hu h4u hm)), ?_, rfl, rfl, hmem⟩
      exact congrArg (4 + 4 * ·) halike.wwords_eq
    · rw [hm] at hmem
      refine ⟨_, _, (exec_compress hps level).trans (congrArg _ (compressWork_of_noSpace hcs hs (by omega) hc)),
        (exec_measure hpu level).trans (congrArg _ (measureWork_of_noSpace hcu hu h4u hm)), ?_, rfl, rfl, hmem⟩
      exact congrArg (· + 4) hn

/-- Two stored forms of the same source bytes. -/
theorem storedAt_reads {s t u v : State} (hs : StoredAt s t) (hu : StoredAt u v) (hn : u.lat.n = s.lat.n)
    (hb : ∀ j, j < s.lat.n.toNat → u.mem.read (u.lat.src + BitVec.ofNat 32 j) = s.mem.read (s.lat.src + BitVec.ofNat 32 j))
    {j : Nat} (hj : j < 4 + s.lat.n.toNat) :
    v.mem.read (u.lat.dst + BitVec.ofNat 32 j) = t.mem.read (s.lat.dst + BitVec.ofNat 32 j) := by
  obtain ⟨hs4, hsb, _⟩ := hs
  obtain ⟨hu4, hub, _⟩ := hu
  by_cases h4 : j < 4
  · rw [hs4 j h4, hu4 j h4, hn]
  · obtain ⟨i, rfl⟩ : ∃ i, j = 4 + i := ⟨j - 4, by omega⟩
    rw [hsb i (by omega), hub i (by rw [hn]; omega), hb i (by omega)]

theorem storedLength_toNat {n : Word} (hn : n.toNat < 2 ^ 31) : (n + 4).toNat = 4 + n.toNat := by
  have h4 : (4 : Word).toNat = 4 := rfl
  rw [BitVec.toNat_add, h4]
  omega

/-- Two Huffman forms of the same payload. -/
theorem huffmanForm_reads {exact : Prop} {p : Nat} {w v : Work} (h : Alike exact p w v) (hmode : v.wr.mode = .write) {a b : Word}
    (hw : w.wr.base = a + 4) (hv : v.wr.base = b + 4) (n : Word) {k : Nat} (hwords : 4 * w.wr.words.toNat ≤ k) (hk : k < 2 ^ 31)
    {j : Nat} (hj : j < (huffmanLength w.wr).toNat) :
    (v.mem.writeWord b n).read (b + BitVec.ofNat 32 j) = (w.mem.writeWord a n).read (a + BitVec.ofNat 32 j) := by
  rw [huffmanLength_eq, BitVec.toNat_ofNat] at hj
  by_cases hj4 : j < 4
  · rw [read_writeWord_same _ _ _ _ hj4, read_writeWord_same _ _ _ _ hj4]
  · rw [read_writeWord_other _ _ _ _ fun i hi => dst_byte_ne (by omega) (by omega) (by omega),
      read_writeWord_other _ _ _ _ fun i hi => dst_byte_ne (by omega) (by omega) (by omega)]
    obtain ⟨i, rfl⟩ : ∃ i, j = 4 + i := ⟨j - 4, by omega⟩
    have hbytes := h.payload hmode i (by omega)
    rwa [hw, hv, add_four_add_ofNat, add_four_add_ofNat] at hbytes

/-- Settles O25: the two attempts code the same words, and the headers and the stored forms are the same bytes. -/
theorem compressIgnoresEarlierState : Obligations.CompressIgnoresEarlierState := by
  unfold Obligations.CompressIgnoresEarlierState
  intro s u level hps hcs hpu hcu hs hu hn hb
  have hsmall := small_of_checkCompress hs
  have hlen : ∀ j, j < (s.lat.n + 4).toNat → j < 4 + s.lat.n.toNat := fun j hj => storedLength_toNat hsmall ▸ hj
  by_cases h4 : s.lat.n.toNat < 4
  · refine ⟨_, _, (exec_compress hps level).trans (congrArg _ (compressWork_of_short hcs hs h4)),
      (exec_compress hpu level).trans (congrArg _ (compressWork_of_short hcu hu (by rwa [hn]))), congrArg (· + 4) hn, rfl, rfl,
      fun j hj => ?_⟩
    exact storedAt_reads (storedForm_storedAt hs rfl (sameExcept_refl _ _ _)) (storedForm_storedAt hu rfl (sameExcept_refl _ _ _))
      hn hb (hlen j hj)
  · have h4u : 4 ≤ u.lat.n.toNat := by rw [hn]; omega
    have hrun := attempt_alike (exact := False) (level := level) (mode := .write) (sourcesAgree_of_reads hn hb) hsmall
      (sameButMemory_of_false _ _)
    have hes := attempt_emits s level .write
    have heu := attempt_emits u level .write
    rcases hrun.cases with ⟨w, v, hc, hm, halike⟩ | ⟨w, v, hc, hm, _⟩
    · rw [hc] at hes
      rw [hm] at heu
      refine ⟨_, _, (exec_compress hps level).trans (congrArg _ (compressWork_of_ok hcs hs (by omega) hc)),
        (exec_compress hpu level).trans (congrArg _ (compressWork_of_ok hcu hu h4u hm)),
        congrArg (4 + 4 * ·) halike.wwords_eq, rfl, rfl, fun j hj => ?_⟩
      have hbs : w.wr.base = s.lat.dst + 4 := hes.base
      have hbu : v.wr.base = u.lat.dst + 4 := heu.base
      rw [← hn]
      exact huffmanForm_reads halike (heu.mode) hbs hbu u.lat.n (hes.bound (Nat.zero_le _) : _ ≤ s.lat.n.toNat) hsmall hj
    · refine ⟨_, _, (exec_compress hps level).trans (congrArg _ (compressWork_of_noSpace hcs hs (by omega) hc)),
        (exec_compress hpu level).trans (congrArg _ (compressWork_of_noSpace hcu hu h4u hm)), congrArg (· + 4) hn, rfl, rfl,
        fun j hj => ?_⟩
      exact storedAt_reads (fallback_storedAt hs hc) (fallback_storedAt hu hm) hn hb (hlen j hj)

end Sys2Proof.Proofs

/-! PROOFS. The engine's instruction cut into its accesses of host memory (70_reset_and_hazards.md R958): the instruction that is
fetched and run again between two accesses is the same one, since it reads no byte that it writes, so the steps end where the
whole instruction ends. -/

namespace Sys2Proof.Proofs

open Sys2Proof Sys2Proof.Machine Sys2Proof.Laws

/-! States that differ in memory. -/

/-- `s'` is `s` with `j` accesses counted and another memory, which reads as that of `s` but in `X`. -/
structure Shadow (X : Word → Prop) (j : Nat) (s s' : State) : Prop where
  state_eq : s' = { s with mem := s'.mem, made := j }
  reads : ∀ x, ¬ X x → s'.mem.read x = s.mem.read x

/-- No address. -/
def Nowhere : Word → Prop := fun _ => False

/-- The addresses that some of the accesses write. -/
def Writes (l : List Access) : Word → Prop := fun x => ∃ v, Access.write x v ∈ l

/-- Host memory after some accesses. -/
def memoryAfter (m : Memory) (l : List Access) : Memory := l.foldl Access.onMemory m

theorem memoryAfter_append (m : Memory) (l l' : List Access) :
    memoryAfter m (l ++ l') = memoryAfter (memoryAfter m l) l' := List.foldl_append

theorem memoryAfter_take_succ (m : Memory) {l : List Access} {j : Nat} (hj : j < l.length) :
    memoryAfter m (l.take (j + 1)) = l[j].onMemory (memoryAfter m (l.take j)) := by
  rw [List.take_add_one, List.getElem?_eq_getElem hj, memoryAfter_append]
  rfl

theorem read_memoryAfter_other {l : List Access} (m : Memory) {x : Word} (hx : ¬ Writes l x) :
    (memoryAfter m l).read x = m.read x := by
  induction l generalizing m with
  | nil => rfl
  | cons a rest ih =>
    have hrest : ¬ Writes rest x := fun ⟨v, hv⟩ => hx ⟨v, List.mem_cons_of_mem _ hv⟩
    refine (ih _ hrest).trans ?_
    cases a with
    | read _ => rfl
    | write b v =>
      exact read_write_other m v fun hb => hx ⟨v, by rw [hb]; exact List.mem_cons_self⟩

/-- Where every write has the value that `t` holds there, the written bytes read as in `t`. -/
theorem read_memoryAfter_written {l : List Access} (m : Memory) {t : Memory}
    (hv : ∀ a v, Access.write a v ∈ l → v = t.read a) {x : Word} (hx : Writes l x) : (memoryAfter m l).read x = t.read x := by
  induction l generalizing m with
  | nil => obtain ⟨_, h⟩ := hx; cases h
  | cons a rest ih =>
    have hrest : ∀ a v, Access.write a v ∈ rest → v = t.read a := fun a v h => hv a v (List.mem_cons_of_mem _ h)
    by_cases hw : Writes rest x
    · exact ih _ hrest hw
    · obtain ⟨v, hmem⟩ := hx
      have ha : a = .write x v := ((List.mem_cons.mp hmem).resolve_right fun h => hw ⟨v, h⟩).symm
      have hlast := read_memoryAfter_other (l := rest) (m.write x v) hw
      rw [memoryAfter, List.foldl_cons, ha, onMemory_write]
      rw [memoryAfter] at hlast
      rw [hlast, read_write_same]
      exact hv x v hmem

/-- Where the writes have the final values and nothing else changes, the memory after them is the final one. -/
theorem read_memoryAfter {l : List Access} {m t : Memory} (hv : ∀ a v, Access.write a v ∈ l → v = t.read a)
    (ho : ∀ x, ¬ Writes l x → t.read x = m.read x) (x : Word) : (memoryAfter m l).read x = t.read x := by
  by_cases hx : Writes l x
  · exact read_memoryAfter_written m hv hx
  · rw [read_memoryAfter_other m hx, ho x hx]

/-! Steps of an instruction whose fetch does not see its own writes. -/

/-- The state after the first `j` accesses, of which `i` are counted. -/
def midway (s : State) (l : List Access) (j i : Nat) : State := { s with mem := memoryAfter s.mem (l.take j), made := i }

/-- After any number of the accesses `l` the instruction still ends where it ends from `s`, with the same accesses; and where
it raises no error, the accesses leave the bytes that it leaves. -/
structure Restarts (s t : State) (l : List Access) : Prop where
  again : ∀ j i, ∃ t', engineStep (midway s l j i) = .next t' ∧ Shadow Nowhere i t t' ∧ accessesBetween (midway s l j i) t' = l
  bytes : t.regs.errcode = 0 → ∀ x, (memoryAfter s.mem l).read x = t.mem.read x

theorem midway_shadow (s : State) (l : List Access) (j i : Nat) : Shadow (Writes l) i s (midway s l j i) :=
  ⟨rfl, fun _ hx => read_memoryAfter_other s.mem fun ⟨v, hv⟩ => hx ⟨v, List.mem_of_mem_take hv⟩⟩

theorem memoryAfter_of_readOnly (m : Memory) {l : List Access} (h : ∀ x, ¬ Writes l x) : memoryAfter m l = m := by
  induction l generalizing m with
  | nil => rfl
  | cons a rest ih =>
    have hrest : ∀ x, ¬ Writes rest x := fun x ⟨v, hv⟩ => h x ⟨v, List.mem_cons_of_mem _ hv⟩
    cases a with
    | read _ => exact ih m hrest
    | write b v => exact (h b ⟨v, List.mem_cons_self⟩).elim

/-- An instruction that only reads. -/
theorem Restarts.of_readOnly {s t : State} {l : List Access} (hl : ∀ x, ¬ Writes l x)
    (hrun : ∀ i, ∃ t', engineStep { s with made := i } = .next t' ∧ Shadow Nowhere i t t' ∧
      accessesBetween { s with made := i } t' = l)
    (hmem : t.regs.errcode = 0 → t.mem = s.mem) : Restarts s t l where
  again j i := by
    have hm : memoryAfter s.mem (l.take j) = s.mem :=
      memoryAfter_of_readOnly s.mem fun x ⟨v, hv⟩ => hl x ⟨v, List.mem_of_mem_take hv⟩
    rw [midway, hm]
    exact hrun i
  bytes he x := by rw [memoryAfter_of_readOnly s.mem hl, hmem he]

theorem accesses_of_step {s t : State} (hc : s.tainted = false) (h : engineStep s = .next t) : accesses s = accessesBetween s t := by
  have hs : ({ s with tainted := false } : State) = s := by rw [← hc]
  simp only [accesses, hs, h]

section Ticks

variable {s t : State} {l : List Access} (hc : s.tainted = false) (h : Restarts s t l)

include hc h

theorem Restarts.accesses_midway (j : Nat) : accesses (midway s l j j) = l := by
  obtain ⟨t', ht, _, hl⟩ := h.again j j
  rw [accesses_of_step (s := midway s l j j) hc ht]
  exact hl

theorem Restarts.tick {j : Nat} (hj : j < l.length) :
    step { midway s l j j with inputs := .tick :: (midway s l j j).inputs } = .next (midway s l (j + 1) (j + 1)) := by
  have ha : (accesses (midway s l j j))[(midway s l j j).made]? = some l[j] := by
    rw [h.accesses_midway hc j]
    exact List.getElem?_eq_getElem hj
  rw [tick_access ha]
  rw [midway, midway, memoryAfter_take_succ s.mem hj]

theorem Restarts.ticks (k i : Nat) (hk : i + k ≤ l.length) :
    engineTicks k (midway s l i i) = .next (midway s l (i + k) (i + k)) := by
  induction k generalizing i with
  | zero => rfl
  | succ k ih => rw [engineTicks_succ (h.tick hc (by omega)), ih (i + 1) (by omega), Nat.succ_add_eq_add_succ]

omit hc h in
theorem engineTicks_add (a b : Nat) {u : State} (hu : engineTicks a s = .next u) : engineTicks (a + b) s = engineTicks b u := by
  induction a generalizing s with
  | zero => cases hu; rw [Nat.zero_add]
  | succ a ih =>
    rw [Nat.succ_add]
    rw [engineTicks] at hu ⊢
    split at hu
    next => exact ih hu
    next => cases hu
    next => cases hu

/-- The steps end where the instruction ends. -/
theorem Restarts.ticksReach (hm : s.made = 0) (hend : engineStep s = .next t) : TicksReach s t := by
  have hs0 : midway s l 0 0 = s := by
    have : ({ s with mem := s.mem, made := 0 } : State) = s := by rw [← hm]
    exact this
  have hticks : ∀ j, j ≤ l.length → engineTicks j s = .next (midway s l j j) := fun j hj => by
    have := h.ticks hc j 0 (by omega)
    rwa [hs0, Nat.zero_add] at this
  have hmade : t.made = 0 := by
    obtain ⟨t0, ht0, hshadow0, _⟩ := h.again 0 0
    rw [hs0, hend] at ht0
    cases ht0
    rw [hshadow0.state_eq]
  obtain ⟨u, hu, hshadow, _⟩ := h.again l.length 0
  have hlast : engineTicks (l.length + 1) s = .next u := by
    rw [engineTicks_add _ 1 (hticks l.length le_rfl), engineTicks_succ (t := u)]
    · rfl
    · rw [tick_last (by rw [h.accesses_midway hc]; exact le_rfl)]
      exact hu
  refine ⟨l.length, u, hlast, ?_, fun x => hshadow.reads x id, fun j hj => ?_, _, hticks _ le_rfl, fun he x => ?_⟩
  · have he := hshadow.state_eq
    rwa [← hmade] at he
  · refine ⟨_, _, hticks j (by omega), hticks (j + 1) (by omega), rfl, ?_⟩
    obtain ⟨a, ha⟩ := onMemory_other (memoryAfter s.mem (l.take j)) l[j]
    refine ⟨a, fun x hx => ?_⟩
    show (memoryAfter s.mem (l.take (j + 1))).read x = _
    rw [memoryAfter_take_succ s.mem hj]
    exact ha x hx
  · have hterr : t.regs.errcode = 0 := by rw [hshadow.state_eq] at he; exact he
    rw [hshadow.reads x id, ← h.bytes hterr x, midway, List.take_length]

end Ticks

/-! Ends of instructions from states that differ in memory. -/

section Ends

variable {X : Word → Prop} {j : Nat} {s s' : State}

theorem Shadow.refl (X : Word → Prop) (s : State) : Shadow X s.made s s := ⟨rfl, fun _ _ => rfl⟩

theorem Shadow.tainted_eq (h : Shadow X j s s') : s'.tainted = s.tainted := by rw [h.state_eq]

theorem Shadow.lat_eq (h : Shadow X j s s') : s'.lat = s.lat := by rw [h.state_eq]

theorem Shadow.phase_eq (h : Shadow X j s s') : s'.phase = s.phase := by rw [h.state_eq]

theorem Shadow.mono {Y : Word → Prop} (h : Shadow X j s s') (hXY : ∀ x, X x → Y x) : Shadow Y j s s' :=
  ⟨h.state_eq, fun x hx => h.reads x fun hX => hx (hXY x hX)⟩

/-- A change of the other fields, the same in both states. -/
theorem Shadow.change {f : State → State} (h : Shadow X j s s')
    (hf : ∀ m k, f { s with mem := m, made := k } = { f s with mem := m, made := k }) : Shadow X j (f s) (f s') := by
  have heq : f s' = { f s with mem := s'.mem, made := j } := by rw [h.state_eq]; exact hf _ _
  have hs := hf s.mem s.made
  rw [heq]
  refine ⟨rfl, fun x hx => ?_⟩
  have hm : (f s).mem = s.mem := by rw [show f s = f { s with mem := s.mem, made := s.made } from rfl, hs]
  rw [hm]
  exact h.reads x hx

theorem Shadow.complete (h : Shadow X j s s') (hc : s.tainted = false) (len : Word) (a b : Bool) :
    Shadow X j (s.complete len a b) (s'.complete len a b) := by
  rw [complete_of_untainted hc, complete_of_untainted (h.tainted_eq.trans hc)]
  exact h.change (f := fun s => s.doneWith len a b) fun _ _ => rfl

/-- The bytes of a forgotten range are the free values of its nonce. -/
theorem read_forget_inside (m : Memory) {base len x : Word} (nonce : Nat) (h : inRange x base len = true) :
    (m.forget base len nonce).read x = Config.freeByte nonce x.toNat := by
  have hh := holds_eq_inRange x base len nonce
  rw [h] at hh
  have hcell := cellsGet_filter m.cells (fun a => !Region.holds { base := base.toNat, len := len.toNat, nonce := nonce } a) x.toNat
  rw [hh] at hcell
  simp only [Memory.read, Memory.forget, Memory.unlisted, nonceAt, hcell, hh, Bool.not_true, Bool.false_eq_true, ↓reduceIte]

/-- The error entry from two states that differ in the destination at most, of a command that has one: it is lost. -/
theorem Shadow.raiseError (h : Shadow X j s s') (hc : s.tainted = false)
    (hX : ∀ x, X x → writesDst s.lat.op = true ∧ inRange x s.lat.dst s.lat.cap = true) (e : ErrCode) (info : Word) :
    Shadow Nowhere j (s.raiseError e info) (s'.raiseError e info) := by
  have hlose : Shadow Nowhere j s.loseDst s'.loseDst := by
    have heq := h.state_eq
    unfold State.loseDst
    rw [h.lat_eq]
    by_cases hw : writesDst s.lat.op = true
    · rw [if_pos hw, if_pos hw]
      refine ⟨by rw [heq]; rfl, fun x _ => ?_⟩
      rw [heq, forgetDst_mem, forgetDst_mem]
      by_cases hx : inRange x s.lat.dst s.lat.cap = true
      · rw [read_forget_inside _ _ hx, read_forget_inside _ _ hx]
      · have hx := Bool.eq_false_iff.mpr hx
        rw [read_forget_outside _ _ _ _ _ hx, read_forget_outside _ _ _ _ _ hx]
        exact h.reads x fun hX' => by rw [(hX x hX').2] at hx; cases hx
    · rw [if_neg hw, if_neg hw]
      exact h.mono fun x hx => absurd (hX x hx).1 hw
  rw [raiseError_of_untainted hc, raiseError_of_untainted (h.tainted_eq.trans hc)]
  exact hlose.change (f := fun s => s.erredWith e.code info) fun _ _ => rfl

end Ends

end Sys2Proof.Proofs

/-! PROOFS. The steps of the commands (70_reset_and_hazards.md R958): COMPRESS reads its source, which it does not write, so that
it can start again between any two accesses; the other commands make no access that writes. -/

namespace Sys2Proof.Proofs

open Sys2Proof Sys2Proof.Machine Sys2Proof.Laws

/-! The addresses that accesses write. -/

/-- The addresses `a + 0 .. a + (k - 1)`. -/
def Within (a : Word) (k : Nat) : Word → Prop := fun x => ∃ i, i < k ∧ x = a + BitVec.ofNat 32 i

theorem read_of_not_within {m m' : Memory} {a : Word} {k : Nat} (h : SameExcept m m' a k) {x : Word} (hx : ¬ Within a k x) :
    m'.read x = m.read x := h x fun i hi he => hx ⟨i, hi, he⟩

theorem sameExcept_of_within {m m' : Memory} {a : Word} {k : Nat} (h : ∀ x, ¬ Within a k x → m'.read x = m.read x) :
    SameExcept m m' a k := fun x hx => h x fun ⟨i, hi, he⟩ => hx i hi he

theorem writes_append (l l' : List Access) (x : Word) : Writes (l ++ l') x ↔ Writes l x ∨ Writes l' x := by
  simp only [Writes, List.mem_append, exists_or]

theorem not_writes_readsAt (a : Word) (k : Nat) (x : Word) : ¬ Writes (readsAt a k) x :=
  fun ⟨v, h⟩ => write_not_mem_readsAt x a v k h

theorem writes_writesAt (m : Memory) (a : Word) (k : Nat) (x : Word) : Writes (writesAt m a k) x ↔ Within a k x := by
  constructor
  · rintro ⟨v, h⟩
    obtain ⟨i, hi, hx, _⟩ := write_mem_writesAt h
    exact ⟨i, hi, hx⟩
  · rintro ⟨i, hi, rfl⟩
    exact ⟨_, List.mem_map.mpr ⟨i, List.mem_range.mpr hi, rfl⟩⟩

theorem writes_copiesAt (m : Memory) (a b : Word) (k : Nat) (x : Word) : Writes (copiesAt m a b k) x ↔ Within a k x := by
  constructor
  · rintro ⟨v, h⟩
    obtain ⟨i, hi, hx, _⟩ := write_mem_copiesAt h
    exact ⟨i, hi, hx⟩
  · rintro ⟨i, hi, rfl⟩
    exact ⟨_, List.mem_flatMap.mpr ⟨i, List.mem_range.mpr hi, List.mem_cons_of_mem _ List.mem_cons_self⟩⟩

theorem writesAt_congr {m m' : Memory} {a : Word} {k : Nat}
    (h : ∀ i, i < k → m'.read (a + BitVec.ofNat 32 i) = m.read (a + BitVec.ofNat 32 i)) : writesAt m' a k = writesAt m a k :=
  List.map_congr_left fun i hi => by rw [h i (List.mem_range.mp hi)]

theorem copiesAt_congr {m m' : Memory} (a b : Word) (k : Nat) (h : ∀ x, m'.read x = m.read x) :
    copiesAt m' a b k = copiesAt m a b k := by
  unfold copiesAt
  simp only [h]

/-- A header and the bytes behind it. -/
theorem within_four_add (a : Word) (k : Nat) (x : Word) : Within a (4 + k) x ↔ Within a 4 x ∨ Within (a + 4) k x := by
  constructor
  · rintro ⟨i, hi, rfl⟩
    by_cases h4 : i < 4
    · exact .inl ⟨i, h4, rfl⟩
    · exact .inr ⟨i - 4, by omega, by rw [add_four_add_ofNat, Nat.add_sub_cancel' (by omega)]⟩
  · rintro (⟨i, hi, rfl⟩ | ⟨i, hi, rfl⟩)
    · exact ⟨i, by omega, rfl⟩
    · exact ⟨4 + i, by omega, by rw [add_four_add_ofNat]⟩

theorem Within.mono {a : Word} {k l : Nat} {x : Word} (h : Within a k x) (hkl : k ≤ l) : Within a l x := by
  obtain ⟨i, hi, hx⟩ := h
  exact ⟨i, by omega, hx⟩

/-! The commands without a write (R801, R806, R808, R810, R812). -/

theorem raiseError_errcode_ne_zero {s : State} (hc : s.tainted = false) (e : ErrCode) (info : Word) :
    (s.raiseError e info).regs.errcode ≠ 0 := by
  rw [raiseError_regs hc]
  exact code_ne_zero e

/-- An instruction's end from another count of accesses; without an error no byte is changed. -/
def EndsCounted (j : Nat) (s t t' : State) : Prop := Shadow Nowhere j t t' ∧ (t.regs.errcode = 0 → t.mem = s.mem)

theorem shadow_counted (s : State) (j : Nat) : Shadow Nowhere j s { s with made := j } := ⟨rfl, fun _ _ => rfl⟩

section Counted

variable {s : State} (j : Nat) (hc : s.tainted = false)

include hc

theorem raiseError_counted (e : ErrCode) (info : Word) :
    EndsCounted j s (s.raiseError e info) (State.raiseError { s with made := j } e info) :=
  ⟨(shadow_counted s j).raiseError hc (fun _ h => h.elim) e info,
    fun h => absurd h (raiseError_errcode_ne_zero hc e info)⟩

theorem complete_counted (len : Word) (a b : Bool) :
    EndsCounted j s (s.complete len a b) (State.complete { s with made := j } len a b) :=
  ⟨(shadow_counted s j).complete hc len a b, fun _ => by rw [complete_of_untainted hc]; rfl⟩

theorem decompressWork_counted : EndsCounted j s s.decompressWork (State.decompressWork { s with made := j }) := by
  unfold State.decompressWork
  cases s.lat.checkDecompress with
  | some e => exact raiseError_counted j hc e 0
  | none => exact ⟨⟨rfl, fun _ _ => rfl⟩, fun _ => rfl⟩

theorem getLengthWork_counted : EndsCounted j s s.getLengthWork (State.getLengthWork { s with made := j }) := by
  unfold State.getLengthWork
  cases s.lat.checkGetLength with
  | some e => exact raiseError_counted j hc e 0
  | none => exact complete_counted j hc _ _ _

theorem measureWork_counted (l : Level) : EndsCounted j s (s.measureWork l) (State.measureWork { s with made := j } l) := by
  have hrun : ∀ {w : Work} (len : Word) (a b : Bool), w.mem = s.mem → EndsCounted j s ((s.withWork w).complete len a b)
      ((State.withWork { s with made := j } w).complete len a b) := fun len a b hm =>
    ⟨(complete_counted (s := s.withWork _) j hc len a b).1,
      fun h => ((complete_counted (s := s.withWork _) j hc len a b).2 h).trans hm⟩
  have hmem := attempt_measure_mem s l
  have hsame : State.attempt { s with made := j } l .measure = s.attempt l .measure := rfl
  unfold State.measureWork
  simp only [hsame]
  cases s.lat.checkMeasure with
  | some e => exact raiseError_counted j hc e 0
  | none =>
    simp only
    split
    · exact complete_counted j hc _ _ _
    · cases hrunEnd : s.attempt l .measure with
      | ok w => rw [hrunEnd] at hmem; exact hrun _ _ _ hmem
      | noSpace w => rw [hrunEnd] at hmem; exact hrun _ _ _ hmem

/-- The end of a command other than COMPRESS. -/
theorem commandWork_counted {i : Instr} {t : State} (hp : s.phase = .start) (hi : ∀ l, i ≠ .compress l) (h : CommandWork i s t) :
    ∃ t', exec i { s with made := j } = .next t' ∧ EndsCounted j s t t' := by
  have hp' : State.phase { s with made := j } = .start := hp
  rcases h with ⟨rfl, rfl⟩ | ⟨l, rfl, _⟩ | ⟨rfl, rfl⟩ | ⟨rfl, rfl⟩ | ⟨l, rfl, rfl⟩ | ⟨hmem, rfl⟩
  · exact ⟨_, exec_nop hp', complete_counted j hc _ _ _⟩
  · exact absurd rfl (hi l)
  · exact ⟨_, exec_decompress hp', decompressWork_counted j hc⟩
  · exact ⟨_, exec_getLength hp', getLengthWork_counted j hc⟩
  · exact ⟨_, exec_measure hp' l, measureWork_counted j hc l⟩
  · exact ⟨_, exec_reserved hp' hmem, raiseError_counted j hc _ _⟩

end Counted

theorem engineStep_of_start {s : State} (hp : s.phase = .start) : engineStep s = exec (decodeCommand s.lat.commandWord) s :=
  engineStep_of_run (fetch_of_start hp)

theorem commandWork_of_start {s t : State} {i : Instr} (hp : s.phase = .start) (h : exec i s = .next t) : CommandWork i s t := by
  rcases exec_next_cases h with ⟨_, hw⟩ | ⟨hq, _⟩ | ⟨hq, _⟩ | ⟨⟨_, _, _, hq⟩, _⟩ | ⟨hq, _⟩ | ⟨_, hq, _⟩
  · exact hw
  all_goals cases hp.symm.trans hq

theorem accessesBetween_of_start {s : State} (hp : s.phase = .start) (t : State) : accessesBetween s t = commandAccesses s t := by
  simp only [accessesBetween, hp]

/-- The accesses of a command other than COMPRESS do not depend on where it ends. -/
theorem commandAccesses_of_other {s : State} (h1 : s.lat.op ≠ 1) (t t' : State) (j : Nat) :
    commandAccesses { s with made := j } t' = commandAccesses s t := by
  simp only [commandAccesses, if_neg h1]
  rfl

theorem restarts_of_other {s t : State} (hp : s.phase = .start) (hc : s.tainted = false) (h1 : s.lat.op ≠ 1)
    (h : engineStep s = .next t) : Restarts s t (commandAccesses s t) := by
  rw [engineStep_of_start hp] at h
  have hi : ∀ l, decodeCommand s.lat.commandWord ≠ .compress l := fun l hl => h1 (op_of_decodeCommand_compress hl)
  have hwork := commandWork_of_start hp h
  refine Restarts.of_readOnly (fun x ⟨v, hv⟩ => h1 (commandAccesses_inDst hv).2) (fun j => ?_) ?_
  · obtain ⟨t', ht', hs, _⟩ := commandWork_counted j hc hp hi hwork
    refine ⟨t', (engineStep_of_start (s := { s with made := j }) hp).trans ht', hs, ?_⟩
    rw [accessesBetween_of_start (s := { s with made := j }) hp]
    exact commandAccesses_of_other h1 t t' j
  · obtain ⟨_, _, _, hmem⟩ := commandWork_counted 0 hc hp hi hwork
    exact hmem

/-! COMPRESS (49_host_commands.md R802). -/

section Compress

variable {s s' t t' : State} {l : Level} {j : Nat}

theorem writes_storedFormAccesses (s t : State) (x : Word) :
    Writes (storedFormAccesses s t) x ↔ Within s.lat.dst (4 + s.lat.n.toNat) x := by
  rw [storedFormAccesses, writes_append, writes_writesAt, writes_copiesAt, within_four_add]

theorem storedFormAccesses_value {a : Word} {v : Byte} (h : .write a v ∈ storedFormAccesses s t) : v = t.mem.read a := by
  obtain ⟨_, _, _, hv⟩ := write_mem_storedFormAccesses h
  exact hv

theorem storedFormAccesses_congr (hl : s'.lat = s.lat) (h : ∀ x, t'.mem.read x = t.mem.read x) :
    storedFormAccesses s' t' = storedFormAccesses s t := by
  unfold storedFormAccesses
  rw [hl, writesAt_congr fun i _ => h _, copiesAt_congr _ _ _ h]

/-- The source is not among bytes of the destination. -/
theorem Shadow.source_eq {k : Nat} (h : Shadow (Within s.lat.dst k) j s s') (hcheck : s.lat.checkCompress = none)
    (hk : k ≤ s.lat.cap.toNat) {i : Nat} (hi : i < s.lat.n.toNat) :
    s'.mem.read (s'.lat.src + BitVec.ofNat 32 i) = s.mem.read (s.lat.src + BitVec.ofNat 32 i) := by
  obtain ⟨hbad, _⟩ := checkCompress_none hcheck
  rw [h.lat_eq]
  exact h.reads _ fun ⟨i', hi', he⟩ => src_ne_dst hbad hi (by omega) he

/-- Two stored forms over memories that differ in the bytes that they write. -/
theorem storedAt_shadow {v : State} (h : Shadow (Within s.lat.dst (4 + s.lat.n.toNat)) j s s')
    (hcheck : s.lat.checkCompress = none) (ht : StoredAt s t) (hv : StoredAt s' v) (x : Word) : v.mem.read x = t.mem.read x := by
  obtain ⟨_, hcap⟩ := checkCompress_none hcheck
  by_cases hx : Within s.lat.dst (4 + s.lat.n.toNat) x
  · obtain ⟨i, hi, rfl⟩ := hx
    have := storedAt_reads ht hv (by rw [h.lat_eq]) (fun i hi => h.source_eq hcheck (by omega) hi) hi
    rwa [h.lat_eq] at this
  · obtain ⟨_, _, hframe⟩ := ht
    obtain ⟨_, _, hframe'⟩ := hv
    rw [h.lat_eq] at hframe'
    rw [read_of_not_within hframe' hx, read_of_not_within hframe hx, h.reads x hx]

theorem Shadow.exists_memory {X : Word → Prop} (h : Shadow X j s s') : ∃ m, s' = { s with mem := m, made := j } :=
  ⟨_, h.state_eq⟩

/-! The accesses of COMPRESS in each of its ends. -/

theorem compressAccesses_of_error {e : ErrCode} (hcheck : s.lat.checkCompress = some e) : compressAccesses s t l = [] := by
  simp only [compressAccesses, hcheck]

theorem compressAccesses_of_short (hcheck : s.lat.checkCompress = none) (hn : s.lat.n.toNat < 4) :
    compressAccesses s t l = storedFormAccesses s t := by
  simp only [compressAccesses, hcheck, if_pos hn]

theorem compressAccesses_of_ok {w : Work} (hcheck : s.lat.checkCompress = none) (hn : 4 ≤ s.lat.n.toNat)
    (h : s.attempt l .write = .ok w) : compressAccesses s t l = readsAt s.lat.src s.lat.n.toNat ++
      (writesAt w.mem (s.lat.dst + 4) (4 * w.wr.words.toNat) ++ writesAt t.mem s.lat.dst 4) := by
  simp only [compressAccesses, hcheck, if_neg (Nat.not_lt.mpr hn), h, Run.work, wwords_toNat]

theorem compressAccesses_of_noSpace {w : Work} (hcheck : s.lat.checkCompress = none) (hn : 4 ≤ s.lat.n.toNat)
    (h : s.attempt l .write = .noSpace w) : compressAccesses s t l = readsAt s.lat.src s.lat.n.toNat ++
      (writesAt w.mem (s.lat.dst + 4) (4 * w.wr.words.toNat) ++ storedFormAccesses s t) := by
  simp only [compressAccesses, hcheck, if_neg (Nat.not_lt.mpr hn), h, Run.work, wwords_toNat]

theorem writes_huffmanForm (m m' : Memory) (a b : Word) (n k : Nat) (x : Word) :
    Writes (readsAt a n ++ (writesAt m (b + 4) k ++ writesAt m' b 4)) x ↔ Within b (4 + k) x := by
  rw [writes_append, writes_append, writes_writesAt, writes_writesAt, within_four_add, Or.comm (a := Within b 4 x)]
  exact or_iff_right (not_writes_readsAt a n x)

/-! COMPRESS from two states that differ in the bytes that it writes. -/

/-- The same end, and the same accesses. -/
def EndsAlike (j : Nat) (l : Level) (s s' t t' : State) : Prop :=
  Shadow Nowhere j t t' ∧ compressAccesses s' t' l = compressAccesses s t l

theorem compress_alike_of_short (h : Shadow (Within s.lat.dst (4 + s.lat.n.toNat)) j s s') (hc : s.tainted = false)
    (hcheck : s.lat.checkCompress = none) (hn : s.lat.n.toNat < 4) :
    EndsAlike j l s s' (s.compressWork l) (s'.compressWork l) := by
  have hl := h.lat_eq
  have hcheck' : s'.lat.checkCompress = none := by rw [hl]; exact hcheck
  have hn' : s'.lat.n.toNat < 4 := by rw [hl]; exact hn
  have hreads := storedAt_shadow h hcheck (storedForm_storedAt hcheck rfl (sameExcept_refl _ _ _))
    (storedForm_storedAt hcheck' rfl (sameExcept_refl _ _ _))
  rw [compressWork_of_short hc hcheck hn, compressWork_of_short (h.tainted_eq.trans hc) hcheck' hn']
  refine ⟨⟨?_, fun x _ => hreads x⟩, ?_⟩
  · obtain ⟨m, rfl⟩ := h.exists_memory
    rfl
  · rw [compressAccesses_of_short hcheck hn, compressAccesses_of_short hcheck' hn']
    exact storedFormAccesses_congr hl hreads

/-- The two Huffman attempts. -/
theorem attempt_shadow {k : Nat} (h : Shadow (Within s.lat.dst k) j s s') (hk : k ≤ s.lat.cap.toNat)
    (hcheck : s.lat.checkCompress = none) :
    RunRel (Alike True s.lat.n.toNat) (StoppedAlike True) (s.attempt l .write) (s'.attempt l .write) := by
  refine attempt_alike (sourcesAgree_of_reads (by rw [h.lat_eq]) fun i hi => h.source_eq hcheck hk hi)
    (small_of_checkCompress hcheck) fun _ => ?_
  obtain ⟨m, rfl⟩ := h.exists_memory
  exact ⟨m, rfl⟩

theorem compress_alike_of_ok {w : Work} (h : Shadow (Within s.lat.dst (4 + 4 * w.wr.words.toNat)) j s s') (hc : s.tainted = false)
    (hcheck : s.lat.checkCompress = none) (hn : 4 ≤ s.lat.n.toNat) (hok : s.attempt l .write = .ok w) :
    EndsAlike j l s s' (s.compressWork l) (s'.compressWork l) := by
  obtain ⟨_, hcap⟩ := checkCompress_none hcheck
  have hl := h.lat_eq
  have hcheck' : s'.lat.checkCompress = none := by rw [hl]; exact hcheck
  have hn' : 4 ≤ s'.lat.n.toNat := by rw [hl]; exact hn
  have hem := attempt_emits s l .write
  have hem' := attempt_emits s' l .write
  have hwords := attempt_words_le s l .write
  have hframe := attempt_sameExcept_words s l .write
  have hframe' := attempt_sameExcept_words s' l .write
  rw [hok] at hem hwords hframe
  simp only [Run.work] at hwords hframe
  have hrun := attempt_shadow (l := l) h (by omega) hcheck
  rcases hrun.cases with ⟨w1, v, hok1, hv, halike⟩ | ⟨w1, v, hok1, _, _⟩
  · rw [hok] at hok1
    cases hok1
    rw [hv] at hem' hframe'
    have hbase : w.wr.base = s.lat.dst + 4 := hem.base
    have hbase' : v.wr.base = s.lat.dst + 4 := hem'.base.trans (by rw [← hl]; rfl)
    have hreads : ∀ x, (v.mem.writeWord s.lat.dst s.lat.n).read x = (w.mem.writeWord s.lat.dst s.lat.n).read x := fun x => by
      by_cases hx : Within s.lat.dst (4 + 4 * w.wr.words.toNat) x
      · obtain ⟨i, hi, rfl⟩ := hx
        refine huffmanForm_reads halike hem'.mode hbase hbase' _ hwords (small_of_checkCompress hcheck) ?_
        rw [huffmanLength_eq, BitVec.toNat_ofNat]
        omega
      · simp only [Run.work, hl, halike.words_eq] at hframe'
        rw [read_of_not_within (huffmanForm_sameExcept hframe' _) hx, read_of_not_within (huffmanForm_sameExcept hframe _) hx,
          h.reads x hx]
    rw [compressWork_of_ok hc hcheck hn hok, compressWork_of_ok (h.tainted_eq.trans hc) hcheck' hn' hv]
    refine ⟨⟨?_, fun x _ => ?_⟩, ?_⟩
    · obtain ⟨m, rfl⟩ := h.exists_memory
      obtain ⟨m', rfl⟩ := halike.same trivial
      rfl
    · rw [hl]; exact hreads x
    · rw [compressAccesses_of_ok hcheck hn hok, compressAccesses_of_ok hcheck' hn' hv, hl, halike.words_eq]
      congr 2
      · refine writesAt_congr fun i hi => ?_
        have := halike.payload hem'.mode i hi
        rwa [hbase, hbase'] at this
      · exact writesAt_congr fun i _ => hreads _
  · rw [hok] at hok1; cases hok1

theorem compress_alike_of_noSpace {w : Work} (h : Shadow (Within s.lat.dst (4 + s.lat.n.toNat)) j s s') (hc : s.tainted = false)
    (hcheck : s.lat.checkCompress = none) (hn : 4 ≤ s.lat.n.toNat) (hfull : s.attempt l .write = .noSpace w) :
    EndsAlike j l s s' (s.compressWork l) (s'.compressWork l) := by
  obtain ⟨_, hcap⟩ := checkCompress_none hcheck
  have hl := h.lat_eq
  have hcheck' : s'.lat.checkCompress = none := by rw [hl]; exact hcheck
  have hn' : 4 ≤ s'.lat.n.toNat := by rw [hl]; exact hn
  have hem := attempt_emits s l .write
  have hem' := attempt_emits s' l .write
  have hrun := attempt_shadow (l := l) h (by omega) hcheck
  rcases hrun.cases with ⟨w1, v, hfull1, _, _⟩ | ⟨w1, v, hfull1, hv, p, halike⟩
  · rw [hfull] at hfull1; cases hfull1
  · rw [hfull] at hfull1
    cases hfull1
    rw [hfull] at hem
    rw [hv] at hem'
    have hreads := storedAt_shadow h hcheck (fallback_storedAt hcheck hfull) (fallback_storedAt hcheck' hv)
    rw [compressWork_of_noSpace hc hcheck hn hfull, compressWork_of_noSpace (h.tainted_eq.trans hc) hcheck' hn' hv]
    refine ⟨⟨?_, fun x _ => hreads x⟩, ?_⟩
    · obtain ⟨m, rfl⟩ := h.exists_memory
      obtain ⟨m', rfl⟩ := halike.same trivial
      rfl
    · rw [compressAccesses_of_noSpace hcheck hn hfull, compressAccesses_of_noSpace hcheck' hn' hv, hl, halike.words_eq]
      refine congrArg₂ (fun a b => _ ++ (a ++ b)) (writesAt_congr fun i hi => ?_) (storedFormAccesses_congr hl hreads)
      have hbase : w.wr.base = s.lat.dst + 4 := hem.base
      have hbase' : v.wr.base = s.lat.dst + 4 := hem'.base.trans (by rw [← hl]; rfl)
      have := halike.payload hem'.mode i hi
      rwa [hbase, hbase'] at this

/-! COMPRESS between its accesses. -/

theorem commandWord_level (l : Latched) : l.commandWord.extractLsb' 4 2 = l.level := by
  have packed : ∀ (op : BitVec 3) (level : BitVec 2),
      (op.zeroExtend 32 ||| (level.zeroExtend 32 <<< 4)).extractLsb' 4 2 = level := by decide
  exact packed l.op l.level

theorem engineStep_compress (hp : s.phase = .start) (h1 : s.lat.op = 1) :
    engineStep s = .next (s.compressWork (levelOfBits s.lat.level)) := by
  have hi : decodeCommand s.lat.commandWord = .compress (levelOfBits s.lat.level) := by
    rw [decodeCommand, commandWord_op, commandWord_level, h1]
    rfl
  rw [engineStep_of_start hp, hi]
  exact exec_compress hp _

theorem accessesBetween_compress (hp : s.phase = .start) (h1 : s.lat.op = 1) (t : State) :
    accessesBetween s t = compressAccesses s t (levelOfBits s.lat.level) := by
  rw [accessesBetween_of_start hp, commandAccesses, if_pos h1]

/-- COMPRESS ends alike where its own writes are done in part, and without an error they leave its bytes. -/
def CompressRestarts (l : Level) (s : State) : Prop :=
  (∀ j s', Shadow (Writes (compressAccesses s (s.compressWork l) l)) j s s' →
    EndsAlike j l s s' (s.compressWork l) (s'.compressWork l)) ∧
  ((s.compressWork l).regs.errcode = 0 → ∀ x,
    (memoryAfter s.mem (compressAccesses s (s.compressWork l) l)).read x = (s.compressWork l).mem.read x)

theorem compressRestarts_of_error {e : ErrCode} (hc : s.tainted = false) (hcheck : s.lat.checkCompress = some e) :
    CompressRestarts l s := by
  have hwork : ∀ {u : State}, u.lat = s.lat → u.compressWork l = u.raiseError e 0 := fun hl => by
    simp only [State.compressWork, hl, hcheck]
  refine ⟨fun j s' h => ?_, fun he => ?_⟩
  · rw [compressAccesses_of_error hcheck] at h
    rw [EndsAlike, hwork rfl, hwork h.lat_eq, compressAccesses_of_error hcheck,
      compressAccesses_of_error (by rw [h.lat_eq]; exact hcheck)]
    have hnone : ∀ x, ¬ Writes [] x := fun x ⟨_, hv⟩ => by cases hv
    exact ⟨h.raiseError hc (fun x hx => absurd hx (hnone x)) e 0, rfl⟩
  · rw [hwork rfl] at he
    exact absurd he (raiseError_errcode_ne_zero hc e 0)

theorem storedForm_bytes {m : Memory} (ht : StoredAt s t) (hm : SameExcept s.mem m s.lat.dst (4 + s.lat.n.toNat)) (x : Word) :
    (memoryAfter m (storedFormAccesses s t)).read x = t.mem.read x := by
  obtain ⟨_, _, hframe⟩ := ht
  refine read_memoryAfter (fun _ _ h => storedFormAccesses_value h) (fun x hx => ?_) x
  rw [writes_storedFormAccesses] at hx
  rw [read_of_not_within hframe hx, read_of_not_within hm hx]

theorem compressRestarts_of_short (hc : s.tainted = false) (hcheck : s.lat.checkCompress = none) (hn : s.lat.n.toNat < 4) :
    CompressRestarts l s := by
  rw [CompressRestarts, compressAccesses_of_short hcheck hn]
  refine ⟨fun j s' h => ?_, fun _ x => ?_⟩
  · exact compress_alike_of_short (h.mono fun x => (writes_storedFormAccesses _ _ x).mp) hc hcheck hn
  · rw [compressWork_of_short hc hcheck hn]
    exact storedForm_bytes (storedForm_storedAt hcheck rfl (sameExcept_refl _ _ _)) (sameExcept_refl _ _ _) x

theorem compressRestarts_of_ok {w : Work} (hc : s.tainted = false) (hcheck : s.lat.checkCompress = none) (hn : 4 ≤ s.lat.n.toNat)
    (hok : s.attempt l .write = .ok w) : CompressRestarts l s := by
  have hframe := attempt_sameExcept_words s l .write
  have hwords := attempt_words_le s l .write
  have hsmall := small_of_checkCompress hcheck
  rw [hok] at hframe hwords
  simp only [Run.work] at hframe hwords
  rw [CompressRestarts, compressAccesses_of_ok hcheck hn hok]
  refine ⟨fun j s' h => ?_, fun _ x => ?_⟩
  · exact compress_alike_of_ok (h.mono fun x => (writes_huffmanForm _ _ _ _ _ _ x).mp) hc hcheck hn hok
  · rw [compressWork_of_ok hc hcheck hn hok]
    show _ = (w.mem.writeWord s.lat.dst s.lat.n).read x
    refine read_memoryAfter (fun a v h => ?_) (fun x hx => ?_) x
    · rcases List.mem_append.mp h with h | h
      · exact absurd h (write_not_mem_readsAt _ _ _ _)
      · rcases List.mem_append.mp h with h | h
        · obtain ⟨i, hi, rfl, rfl⟩ := write_mem_writesAt h
          refine (read_writeWord_other _ _ _ _ fun i' hi' => ?_).symm
          rw [add_four_add_ofNat]
          exact dst_byte_ne (by omega) (by omega) (by omega)
        · obtain ⟨_, _, _, hv⟩ := write_mem_writesAt h
          exact hv
    · rw [writes_huffmanForm] at hx
      exact read_of_not_within (huffmanForm_sameExcept hframe _) hx

theorem compressRestarts_of_noSpace {w : Work} (hc : s.tainted = false) (hcheck : s.lat.checkCompress = none)
    (hn : 4 ≤ s.lat.n.toNat) (hfull : s.attempt l .write = .noSpace w) : CompressRestarts l s := by
  have hwords := attempt_words_le s l .write
  rw [hfull] at hwords
  simp only [Run.work] at hwords
  have hpayload : ∀ x, Writes (readsAt s.lat.src s.lat.n.toNat ++ writesAt w.mem (s.lat.dst + 4) (4 * w.wr.words.toNat)) x →
      Within s.lat.dst (4 + s.lat.n.toNat) x := fun x hx => by
    rw [writes_append, writes_writesAt] at hx
    exact (within_four_add _ _ _).mpr (.inr ((hx.resolve_left (not_writes_readsAt _ _ _)).mono hwords))
  rw [CompressRestarts, compressAccesses_of_noSpace hcheck hn hfull, ← List.append_assoc]
  refine ⟨fun j s' h => ?_, fun _ x => ?_⟩
  · refine compress_alike_of_noSpace (h.mono fun x hx => ?_) hc hcheck hn hfull
    rw [writes_append, writes_storedFormAccesses] at hx
    exact hx.elim (hpayload x) id
  · rw [compressWork_of_noSpace hc hcheck hn hfull, memoryAfter_append]
    refine storedForm_bytes (fallback_storedAt hcheck hfull) (sameExcept_of_within fun x hx => ?_) x
    exact read_memoryAfter_other s.mem fun h => hx (hpayload x h)

theorem compressRestarts (hc : s.tainted = false) : CompressRestarts l s := by
  cases hcheck : s.lat.checkCompress with
  | some e => exact compressRestarts_of_error hc hcheck
  | none =>
    by_cases hn : s.lat.n.toNat < 4
    · exact compressRestarts_of_short hc hcheck hn
    · cases hrun : s.attempt l .write with
      | ok w => exact compressRestarts_of_ok hc hcheck (by omega) hrun
      | noSpace w => exact compressRestarts_of_noSpace hc hcheck (by omega) hrun

theorem restarts_of_compress (hp : s.phase = .start) (hc : s.tainted = false) (h1 : s.lat.op = 1) (h : engineStep s = .next t) :
    Restarts s t (accessesBetween s t) := by
  rw [engineStep_compress hp h1] at h
  cases h
  rw [accessesBetween_compress hp h1]
  obtain ⟨halike, hbytes⟩ := compressRestarts (l := levelOfBits s.lat.level) hc
  refine ⟨fun j i => ?_, hbytes⟩
  obtain ⟨hs, ha⟩ := halike i _ (midway_shadow s _ j i)
  refine ⟨_, engineStep_compress (s := midway s _ j i) hp h1, hs, ?_⟩
  rw [accessesBetween_compress (s := midway s _ j i) hp h1]
  exact ha

end Compress

theorem engineStep_of_entry {s t : State} (hm : s.made = 0) (h : step { s with inputs := .engine :: s.inputs } = .next t) :
    engineStep s = .next t := by
  have hs : ({ s with made := 0 } : State) = s := by rw [← hm]
  rw [step_engine_entry, hs] at h
  exact h

/-- Settles O42: COMPRESS can start again after any of its accesses, and the other commands write nothing. -/
theorem ticksRunCommand : Obligations.TicksRunCommand := by
  unfold Obligations.TicksRunCommand
  intro s t hp hc hm h
  have hstep := engineStep_of_entry hm h
  by_cases h1 : s.lat.op = 1
  · exact (restarts_of_compress hp hc h1 hstep).ticksReach hc hm hstep
  · exact (restarts_of_other hp hc h1 hstep).ticksReach hc hm hstep

end Sys2Proof.Proofs

/-! PROOFS. The steps of DECOMPRESS (70_reset_and_hazards.md R958): a header, a block or a token reads the payload, which is apart
from the destination, and output before the byte that it writes, so that it can start again between any two of its accesses. -/

namespace Sys2Proof.Proofs

open Sys2Proof Sys2Proof.Machine Sys2Proof.Laws

/-! Reads of the payload from two memories that hold the same payload. -/

section Payload

variable {m m' : Memory} {r r' : Reader}

theorem SamePayload.advance (h : SamePayload m m' r) (hr : Advances m r r') : SamePayload m m' r' := by
  rw [SamePayload, hr.base, hr.len]; exact h

theorem alignReader_of_samePayload (h : SamePayload m m' r) : alignReader m' r = alignReader m r := by
  rw [alignReader, alignReader, getBits_of_samePayload h]

theorem getCodeFrom_of_samePayload (h : SamePayload m m' r) (tree : List Slot) (k node : Nat) :
    getCodeFrom m' tree k node r = getCodeFrom m tree k node r := by
  induction k generalizing node r with
  | zero => rfl
  | succ k ih =>
    rw [getCodeFrom, getCodeFrom, getBits_of_samePayload h]
    cases hb : getBits m 1 r with
    | error e => rfl
    | ok a =>
      obtain ⟨b, r1⟩ := a
      have hnext := h.advance (getBits_advances (by decide) hb)
      simp only [ih hnext]

theorem readToken_of_samePayload (h : SamePayload m m' r) (f : Format) (tree : List Slot) (p : Nat → Bool) :
    readToken m' f tree p r = readToken m f tree p r := by
  unfold readToken
  rw [getCode, getCode, getCodeFrom_of_samePayload h]
  cases hc : getCodeFrom m tree Config.litMaxLen 0 r with
  | error e => rfl
  | ok a =>
    obtain ⟨sym, r1⟩ := a
    have hnext := h.advance (getCodeFrom_advances hc)
    simp only [getBits_of_samePayload hnext]

theorem readBlockType_of_samePayload (h : SamePayload m m' r) : readBlockType m' r = readBlockType m r := by
  rw [readBlockType, readBlockType, getBits_of_samePayload h]

theorem readLengths3_of_samePayload (h : SamePayload m m' r) (k : Nat) : readLengths3 m' k r = readLengths3 m k r := by
  induction k generalizing r with
  | zero => rfl
  | succ k ih =>
    rw [readLengths3, readLengths3, getBits_of_samePayload h]
    cases hb : getBits m 3 r with
    | error e => rfl
    | ok a =>
      obtain ⟨v, r1⟩ := a
      have hnext := h.advance (getBits_advances (by decide) hb)
      simp only [ih hnext]

theorem storedByteAccesses_of_samePayload (h : SamePayload m m' r) (dst : Word) (k i : Nat) :
    storedByteAccesses m' dst k i r = storedByteAccesses m dst k i r := by
  induction k generalizing r i with
  | zero => rfl
  | succ k ih =>
    rw [storedByteAccesses, storedByteAccesses, getBits_of_samePayload h]
    cases hb : getBits m 8 r with
    | error e => rfl
    | ok a =>
      obtain ⟨b, r1⟩ := a
      have hnext := h.advance (getBits_advances (by decide) hb)
      simp only [ih hnext]

end Payload

/-! Writes of bytes that do not depend on what the written bytes were before. -/

/-- The addresses `a + i .. a + (i + k - 1)`. -/
def WithinFrom (a : Word) (i k : Nat) : Word → Prop := fun x => ∃ b, i ≤ b ∧ b < i + k ∧ x = a + BitVec.ofNat 32 b

theorem withinFrom_zero (a : Word) (k : Nat) (x : Word) : WithinFrom a 0 k x ↔ Within a k x := by
  simp only [WithinFrom, Within, Nat.zero_le, Nat.zero_add, true_and]

/-- Two memories that read alike but in `X`. -/
def AgreeBut (X : Word → Prop) (m m' : Memory) : Prop := ∀ x, ¬ X x → m'.read x = m.read x

theorem AgreeBut.write {m m' : Memory} {a : Word} {i k : Nat} (h : AgreeBut (WithinFrom a i (k + 1)) m m') (v : Byte) :
    AgreeBut (WithinFrom a (i + 1) k) (m.write (a + BitVec.ofNat 32 i) v) (m'.write (a + BitVec.ofNat 32 i) v) := by
  intro x hx
  by_cases he : x = a + BitVec.ofNat 32 i
  · rw [he, read_write_same, read_write_same]
  · rw [read_write_other _ _ he, read_write_other _ _ he]
    refine h x fun ⟨b, hlo, hhi, hb⟩ => ?_
    rcases Nat.eq_or_lt_of_le hlo with rfl | hlt
    · exact he hb
    · exact hx ⟨b, hlt, by omega, hb⟩

/-- A forward copy whose source is never a byte still to be written. -/
theorem copyForward_agree {dst src : Word} {k i : Nat} {m m' : Memory} (h : AgreeBut (WithinFrom dst i k) m m')
    (hsrc : ∀ b c, i ≤ b → b ≤ c → c < i + k → src + BitVec.ofNat 32 b ≠ dst + BitVec.ofNat 32 c) (x : Word) :
    (Memory.copyForward dst src k i m').read x = (Memory.copyForward dst src k i m).read x := by
  induction k generalizing i m m' with
  | zero =>
    refine h x ?_
    rintro ⟨b, hlo, hhi, _⟩
    omega
  | succ k ih =>
    have hbyte : m'.read (src + BitVec.ofNat 32 i) = m.read (src + BitVec.ofNat 32 i) :=
      h _ fun ⟨c, hlo, hhi, hc⟩ => hsrc i c le_rfl hlo hhi hc
    rw [Memory.copyForward, Memory.copyForward, hbyte]
    exact ih (h.write _) fun b c hlo hbc hc => hsrc b c (by omega) hbc (by omega)

/-- The bytes of a stored block from two memories that differ in the bytes that it writes. -/
theorem storedBytes_agree {dst : Word} {k i : Nat} {m m' : Memory} {r : Reader} (h : AgreeBut (WithinFrom dst i k) m m')
    (hapart : ApartFrom dst i k r) :
    (∀ e, storedBytes dst k i m r = .error e → storedBytes dst k i m' r = .error e) ∧
    ∀ x r', storedBytes dst k i m r = .ok (x, r') → ∃ x', storedBytes dst k i m' r = .ok (x', r') ∧ ∀ a, x'.read a = x.read a := by
  induction k generalizing i m m' r with
  | zero =>
    refine ⟨fun _ he => (nomatch he), fun x r' hx => ?_⟩
    cases hx
    refine ⟨m', rfl, fun a => h a ?_⟩
    rintro ⟨b, hlo, hhi, _⟩
    omega
  | succ k ih =>
    have hsame : SamePayload m m' r := fun j hj => h _ fun ⟨b, hlo, hhi, hb⟩ => hapart j hj b hlo hhi hb
    rw [storedBytes, storedBytes, getBits_of_samePayload hsame]
    cases hb : getBits m 8 r with
    | error e => exact ⟨fun _ he => he, fun _ _ hx => (nomatch hx)⟩
    | ok a =>
      obtain ⟨b, r1⟩ := a
      have hadv := getBits_advances (by decide) hb
      refine ih (h.write _) ?_
      rw [ApartFrom, hadv.base, hadv.len]
      exact fun j hj c hlo hhi => hapart j hj c (by omega) (by omega)

/-! The work of the decoder from two states that differ in the bytes that it writes. -/

/-- Where the first outcome answers, the second answers the same state but for the representation of memory. -/
def OutShadow (j : Nat) (o o' : Out) : Prop := ∀ t, o = .next t → ∃ t', o' = .next t' ∧ Shadow Nowhere j t t'

theorem OutShadow.of_next {j : Nat} {t t' : State} (h : Shadow Nowhere j t t') : OutShadow j (.next t) (.next t') := by
  rintro _ ⟨⟩
  exact ⟨t', rfl, h⟩

section Decoder

variable {X : Word → Prop} {j : Nat} {s s' : State}

theorem Shadow.rd_eq (h : Shadow X j s s') : s'.rd = s.rd := by rw [h.state_eq]

theorem Shadow.dec_eq (h : Shadow X j s s') : s'.dec = s.dec := by rw [h.state_eq]

theorem Shadow.cache_eq (h : Shadow X j s s') : s'.cache = s.cache := by rw [h.state_eq]

theorem Shadow.regs_eq (h : Shadow X j s s') : s'.regs = s.regs := by rw [h.state_eq]

theorem Shadow.samePayload (h : Shadow Nowhere j s s') (r : Reader) : SamePayload s.mem s'.mem r := fun _ _ => h.reads _ id

theorem Shadow.blockLoop (h : Shadow X j s s') (hc : s.tainted = false) : Shadow X j s.blockLoop s'.blockLoop := by
  unfold State.blockLoop
  by_cases hlt : s.dec.out.toNat < s.dec.m.toNat
  · have hlt' : s'.dec.out.toNat < s'.dec.m.toNat := by rwa [h.dec_eq]
    rw [if_pos hlt, if_pos hlt']
    exact h.change (f := fun u => { u with phase := .block }) fun _ _ => rfl
  · have hlt' : ¬ s'.dec.out.toNat < s'.dec.m.toNat := by rwa [h.dec_eq]
    rw [if_neg hlt, if_neg hlt', show s'.dec.m = s.dec.m by rw [h.dec_eq]]
    exact h.complete hc _ _ _

theorem Shadow.symbolLoop (h : Shadow X j s s') (hc : s.tainted = false) : Shadow X j s.symbolLoop s'.symbolLoop := by
  unfold State.symbolLoop
  by_cases hlt : s.dec.bsym.toNat < Config.blockSyms ∧ s.dec.out.toNat < s.dec.m.toNat
  · have hlt' : s'.dec.bsym.toNat < Config.blockSyms ∧ s'.dec.out.toNat < s'.dec.m.toNat := by rwa [h.dec_eq]
    rw [if_pos hlt, if_pos hlt']
    exact h.change (f := fun u => { u with phase := .symbol }) fun _ _ => rfl
  · have hlt' : ¬ (s'.dec.bsym.toNat < Config.blockSyms ∧ s'.dec.out.toNat < s'.dec.m.toNat) := by rwa [h.dec_eq]
    rw [if_neg hlt, if_neg hlt']
    exact h.blockLoop hc

/-- The destination of DECOMPRESS. -/
def InDst (s : State) : Word → Prop := fun x => writesDst s.lat.op = true ∧ inRange x s.lat.dst s.lat.cap = true

theorem Shadow.stopWith (h : Shadow X j s s') (hc : s.tainted = false) (hX : ∀ x, X x → InDst s x) (e : Stop) :
    OutShadow j (s.stopWith e) (s'.stopWith e) := by
  cases e with
  | error c info => exact .of_next (h.raiseError hc hX c info)
  | fault f => exact fun t ht => by cases ht
  | refusal r => exact fun t ht => by cases ht

/-! Tokens that write no byte. -/

theorem raise_nowhere (h : Shadow Nowhere j s s') (hc : s.tainted = false) (e : ErrCode) (info : Word) :
    OutShadow j (.next (s.raiseError e info)) (.next (s'.raiseError e info)) :=
  .of_next (h.raiseError hc (fun _ hx => hx.elim) e info)

theorem stopWith_nowhere (h : Shadow Nowhere j s s') (hc : s.tainted = false) (e : Stop) :
    OutShadow j (s.stopWith e) (s'.stopWith e) := h.stopWith hc (fun _ hx => hx.elim) e

theorem endLiteralLens_shadow (h : Shadow Nowhere j s s') (hc : s.tainted = false) (count : Nat) :
    OutShadow j (s.endLiteralLens count) (s'.endLiteralLens count) := by
  have hbits := getBits_of_samePayload (h.samePayload s.rd) 6
  unfold State.endLiteralLens
  rw [h.dec_eq, h.rd_eq, hbits]
  simp only
  cases buildTree (lensOf (clearFrom count Config.litN s.dec.lensLit)) Config.litN Config.litMaxLen with
  | none => exact raise_nowhere h hc _ _
  | some tree =>
    simp only
    cases getBits s.mem 6 s.rd with
    | error e => exact stopWith_nowhere h hc e
    | ok a =>
      obtain ⟨m, rfl⟩ := h.exists_memory
      exact .of_next ⟨rfl, fun x hx => h.reads x hx⟩

theorem endDistanceLens_shadow (h : Shadow Nowhere j s s') (hc : s.tainted = false) (count : Nat) :
    OutShadow j (s.endDistanceLens count) (s'.endDistanceLens count) := by
  unfold State.endDistanceLens
  rw [h.dec_eq, h.rd_eq]
  simp only
  cases buildTree (lensOf (clearFrom count Config.distN s.dec.lensDist)) Config.distN Config.distMaxLen with
  | none => exact raise_nowhere h hc _ _
  | some tree =>
    refine .of_next (Shadow.symbolLoop ?_ hc)
    obtain ⟨m, rfl⟩ := h.exists_memory
    exact ⟨rfl, fun x hx => h.reads x hx⟩

theorem codeLength_shadow {q : RleSeq} {count i : Nat} (hp : s.phase = .rle q count i) (h : Shadow Nowhere j s s')
    (hc : s.tainted = false) (sym x : Nat) : OutShadow j (s.codeLength sym x) (s'.codeLength sym x) := by
  have hp' := h.phase_eq.trans hp
  have hlens : s'.dec.lensFor q = s.dec.lensFor q := by rw [h.dec_eq]
  cases happly : applyCodeLength sym x count i (s.dec.lensFor q) with
  | none =>
    rw [codeLength_rejected hp happly, codeLength_rejected hp' (by rwa [hlens]), h.rd_eq]
    exact raise_nowhere h hc _ _
  | some a =>
    obtain ⟨lens, k⟩ := a
    have hd := h.change (f := fun u => { u with dec := u.dec.setLens q lens }) fun _ _ => rfl
    rw [codeLength_accepted hp happly, codeLength_accepted hp' (by rwa [hlens])]
    rcases Nat.lt_or_ge k count with hk | hk
    · rw [nextCodeLength_inside hk, nextCodeLength_inside hk]
      exact .of_next (hd.change (f := fun u => { u with phase := .rle q count k }) fun _ _ => rfl)
    · cases q with
      | literal =>
        rw [nextCodeLength_literal hk, nextCodeLength_literal hk]
        exact endLiteralLens_shadow hd hc count
      | distance =>
        rw [nextCodeLength_distance hk, nextCodeLength_distance hk]
        exact endDistanceLens_shadow hd hc count

theorem compressedBlockWork_shadow (h : Shadow Nowhere j s s') (hc : s.tainted = false) :
    OutShadow j s.compressedBlockWork s'.compressedBlockWork := by
  unfold State.compressedBlockWork
  rw [h.rd_eq, readLengths3_of_samePayload (h.samePayload s.rd)]
  cases readLengths3 s.mem Config.clN s.rd with
  | error e => exact stopWith_nowhere h hc e
  | ok a =>
    obtain ⟨lens, r1⟩ := a
    simp only
    cases buildTree lens Config.clN Config.clMaxLen with
    | none => exact raise_nowhere h hc _ _
    | some tree =>
      simp only
      rw [getBits_of_samePayload (h.samePayload r1)]
      cases getBits s.mem 6 r1 with
      | error e => exact stopWith_nowhere h hc e
      | ok a =>
        obtain ⟨m, rfl⟩ := h.exists_memory
        exact .of_next ⟨rfl, fun x hx => h.reads x hx⟩

/-! The instructions that write output. -/

theorem literal_shadow (h : Shadow X j s s') (hc : s.tainted = false) (hX : ∀ x, X x → x = s.lat.dst + s.dec.out) (b : Byte) :
    Shadow Nowhere j (s.literal b) (s'.literal b) := by
  refine Shadow.symbolLoop ?_ hc
  obtain ⟨m, rfl⟩ := h.exists_memory
  refine ⟨rfl, fun x _ => ?_⟩
  show (m.write (s.lat.dst + s.dec.out) b).read x = (s.mem.write (s.lat.dst + s.dec.out) b).read x
  by_cases hx : x = s.lat.dst + s.dec.out
  · rw [hx, read_write_same, read_write_same]
  · rw [read_write_other _ _ hx, read_write_other _ _ hx]
    exact h.reads x fun hX' => hx (hX x hX')

/-- The source of an overlap copy is behind the byte that is written. -/
theorem copy_source_ne {a out : Word} {d b c len : Nat} (hd : 0 < d) (hback : d ≤ out.toNat) (hlen : out.toNat + len ≤ 2 ^ 32)
    (hbc : b ≤ c) (hc : c < len) :
    a + (out - BitVec.ofNat 32 d) + BitVec.ofNat 32 b ≠ a + out + BitVec.ofNat 32 c := by
  intro heq
  have hnat := congrArg BitVec.toNat heq
  have hout := out.isLt
  have ha := a.isLt
  simp only [BitVec.toNat_add, BitVec.toNat_sub, BitVec.toNat_ofNat] at hnat
  omega

theorem copyMatch_shadow {len d : Nat} (h : Shadow X j s s') (hX : ∀ x, X x → Within (s.lat.dst + s.dec.out) len x) (hd : 0 < d)
    (hback : d ≤ s.dec.out.toNat) (hlen : s.dec.out.toNat + len ≤ 2 ^ 32) :
    Shadow Nowhere j (s.copyMatch len d) (s'.copyMatch len d) := by
  have hagree : AgreeBut (WithinFrom (s.lat.dst + s.dec.out) 0 len) s.mem s'.mem := fun x hx =>
    h.reads x fun hx' => hx ((withinFrom_zero _ _ x).mpr (hX x hx'))
  obtain ⟨m, rfl⟩ := h.exists_memory
  refine ⟨rfl, fun x _ => copyForward_agree hagree (fun b c _ hbc hc => ?_) x⟩
  exact copy_source_ne hd hback hlen hbc (by omega)

theorem distBase_pos {c : Nat} (h3 : 3 ≤ c) (h64 : c < 64) : 0 < distBase c :=
  (by decide : ∀ c < 64, 3 ≤ c → 0 < distBase c) c h64 h3

theorem unmapDist_pos {cache cache' : Cache} {c x d : Nat} (hc : c < 64) (h : unmapDist cache c x = some (d, cache')) : 0 < d := by
  unfold unmapDist at h
  split_ifs at h with hcode hempty
  · cases h
    omega
  · cases h
    exact Nat.add_pos_left (distBase_pos (by omega) hc) x

theorem produced_of_same {t : State} (h : t.dec.out = s.dec.out) : produced s t = 0 := by
  rw [produced, h, BitVec.sub_self]; rfl

theorem produced_of_add {t : State} {k : Nat} (h : t.dec.out = s.dec.out + BitVec.ofNat 32 k) (hk : k < 2 ^ 32) :
    produced s t = k := by
  rw [produced, h, BitVec.add_comm, BitVec.add_sub_cancel, BitVec.toNat_ofNat, Nat.mod_eq_of_lt hk]

theorem not_within_zero (a x : Word) : ¬ Within a 0 x := by
  rintro ⟨i, hi, _⟩
  omega

theorem distanceWork_shadow {len c x : Nat} (h : Shadow X j s s') (hc : s.tainted = false) (hcode : c < 64)
    (hX : ∀ y, X y → Within (s.lat.dst + s.dec.out) (produced s (s.distanceWork len c x)) y)
    (hout : s.dec.out.toNat < s.dec.m.toNat) : Shadow Nowhere j (s.distanceWork len c x) (s'.distanceWork len c x) := by
  have raise : ∀ {u u' : State}, Shadow X j u u' → u.tainted = false → s.distanceWork len c x =
      u.raiseError .corruptInput s.rd.offset → u.dec = s.dec →
      Shadow Nowhere j (u.raiseError .corruptInput s.rd.offset) (u'.raiseError .corruptInput s.rd.offset) := fun hu hcu hw hdec => by
    refine hu.raiseError hcu (fun y hy => ?_) _ _
    have hwithin := hX y hy
    rw [hw, produced_of_same (by rw [raiseError_dec, hdec])] at hwithin
    exact absurd hwithin (not_within_zero _ _)
  have hoffset : s'.rd.offset = s.rd.offset := by rw [h.rd_eq]
  cases hd : unmapDist s.cache c x with
  | none =>
    rw [distanceWork_empty hd, distanceWork_empty (s := s') (by rw [h.cache_eq]; exact hd), hoffset]
    exact raise h hc (distanceWork_empty hd) rfl
  | some a =>
    obtain ⟨d, cache⟩ := a
    have hcache := h.change (f := fun u => { u with cache := cache }) fun _ _ => rfl
    have hd' : unmapDist s'.cache c x = some (d, cache) := by rw [h.cache_eq]; exact hd
    by_cases hbad : s.dec.out.toNat < d ∨ s.dec.m.toNat - s.dec.out.toNat < len
    · rw [distanceWork_rejected hd hbad, distanceWork_rejected hd' (by rw [h.dec_eq]; exact hbad), hoffset]
      exact raise hcache hc (distanceWork_rejected hd hbad) rfl
    · obtain ⟨hback, hlen⟩ := not_or.mp hbad
      have hm := s.dec.m.isLt
      have hw := distanceWork_copies hd (Nat.not_lt.mp hback) (Nat.not_lt.mp hlen)
      have hw' := distanceWork_copies (s := s') (len := len) hd' (by rw [h.dec_eq]; omega) (by rw [h.dec_eq]; omega)
      rw [hw, produced_of_add (k := len) (by rw [symbolLoop_dec]; rfl) (by omega)] at hX
      rw [hw, hw']
      exact (copyMatch_shadow hcache hX (unmapDist_pos hcode hd) (Nat.not_lt.mp hback) (by simp only; omega)).symbolLoop hc

/-! A stored block. -/

theorem ApartFrom.advance {m : Memory} {dst : Word} {i k : Nat} {r r' : Reader} (h : ApartFrom dst i k r) (hr : Advances m r r') :
    ApartFrom dst i k r' := by
  rw [ApartFrom, hr.base, hr.len]; exact h

theorem Shadow.samePayload_of_dst (h : Shadow X j s s') (hX : ∀ x, X x → InDst s x) (hready : s.readerReady)
    (hbad : s.lat.rangesBad = false) : SamePayload s.mem s'.mem s.rd := fun i hi => by
  refine h.reads _ fun hx => ?_
  obtain ⟨_, hin⟩ := hX _ hx
  rw [not_inRange_dst_of_src hbad (payload_inRange_src hready hbad hi)] at hin
  cases hin

theorem storedBlockWork_shadow (h : Shadow X j s s') (hc : s.tainted = false) (hready : s.readerReady) (hroom : s.outputRoom)
    (hdst : ∀ x, X x → InDst s x)
    (hX : ∀ e r, getBits s.mem 8 s.rd = .ok (e, r) →
      ∀ x, X x → Within (s.lat.dst + s.dec.out) (storedCount e s.dec.m.toNat s.dec.out.toNat) x) :
    OutShadow j s.storedBlockWork s'.storedBlockWork := by
  obtain ⟨hbad, _, _⟩ := id hroom
  have hsame := h.samePayload_of_dst hdst hready hbad
  cases hextra : getBits s.mem 8 s.rd with
  | error e =>
    rw [storedBlockWork_of_count_error hextra,
      storedBlockWork_of_count_error (s := s') (by rw [h.rd_eq, getBits_of_samePayload hsame]; exact hextra)]
    exact h.stopWith hc hdst e
  | ok a =>
    obtain ⟨e, r1⟩ := a
    have hadv1 := getBits_advances (by decide) hextra
    have hextra' : getBits s'.mem 8 s'.rd = .ok (e, r1) := by rw [h.rd_eq, getBits_of_samePayload hsame]; exact hextra
    have hsame1 := hsame.advance hadv1
    cases halign : alignReader s.mem r1 with
    | error stop =>
      have halign' : alignReader s'.mem r1 = .error stop := by rw [alignReader_of_samePayload hsame1]; exact halign
      simp only [State.storedBlockWork, hextra, halign, hextra', halign']
      exact h.stopWith hc hdst stop
    | ok r2 =>
      have halign' : alignReader s'.mem r1 = .ok r2 := by rw [alignReader_of_samePayload hsame1]; exact halign
      obtain ⟨_, _, _, hcoherent⟩ := hready
      have hapart := ((apartFrom_of_outputRoom ⟨‹_›, ‹_›, ‹_›, hcoherent⟩ hroom (.refl hcoherent)
        (storedCount_le e s.dec.m.toNat s.dec.out.toNat)).advance hadv1).advance (alignReader_advances halign)
      have hagree : AgreeBut (WithinFrom (s.lat.dst + s.dec.out) 0 (storedCount e s.dec.m.toNat s.dec.out.toNat)) s.mem s'.mem :=
        fun x hx => h.reads x fun hx' => hx ((withinFrom_zero _ _ x).mpr (hX e r1 hextra x hx'))
      obtain ⟨herror, hok⟩ := storedBytes_agree hagree hapart
      have hk' : storedCount e s'.dec.m.toNat s'.dec.out.toNat = storedCount e s.dec.m.toNat s.dec.out.toNat := by rw [h.dec_eq]
      have hdst' : s'.lat.dst + s'.dec.out = s.lat.dst + s.dec.out := by rw [h.lat_eq, h.dec_eq]
      cases hbytes : storedBytes (s.lat.dst + s.dec.out) (storedCount e s.dec.m.toNat s.dec.out.toNat) 0 s.mem r2 with
      | error stop =>
        rw [storedBlockWork_of_bytes_error hextra rfl halign hbytes,
          storedBlockWork_of_bytes_error hextra' hk' halign' (by rw [hdst']; exact herror stop hbytes)]
        exact h.stopWith hc hdst stop
      | ok a =>
        obtain ⟨m1, r3⟩ := a
        obtain ⟨m1', hbytes', hreads⟩ := hok m1 r3 hbytes
        rw [storedBlockWork_ok hextra rfl halign hbytes, storedBlockWork_ok hextra' hk' halign' (by rw [hdst']; exact hbytes')]
        refine .of_next (Shadow.blockLoop ?_ hc)
        obtain ⟨m, rfl⟩ := h.exists_memory
        exact ⟨rfl, fun x _ => hreads x⟩

/-! The headers. -/

theorem exec_header (hp : s.phase = .header) (w : Word) :
    exec (decodeHeader w) s = .next (if headerIsHuffman w then s.huffmanHeader w else s.storedHeader w) := by
  by_cases h0 : w = 0
  · subst h0
    exact exec_hdrStoredEmpty hp
  · cases hmsb : w.msb with
    | true =>
      have hi : decodeHeader w = .hdrStored w := by simp only [decodeHeader, if_neg h0, hmsb, if_true]
      have hh : headerIsHuffman w = false := by simp only [headerIsHuffman, hmsb, Bool.not_true, Bool.false_and]
      rw [hi, hh]
      exact exec_hdrStored hp w
    | false =>
      have hi : decodeHeader w = .hdrHuffman w := by simp only [decodeHeader, if_neg h0, hmsb, Bool.false_eq_true, if_false]
      have hh : headerIsHuffman w = true := by
        simp only [headerIsHuffman, hmsb, Bool.not_false, Bool.true_and, bne_iff_ne]; exact h0
      rw [hi, hh]
      exact exec_hdrHuffman hp w

theorem huffmanHeader_shadow (h : Shadow Nowhere j s s') (hc : s.tainted = false) (w : Word) :
    Shadow Nowhere j (s.huffmanHeader w) (s'.huffmanHeader w) := by
  have hcap' : s'.lat.cap.toNat = s.lat.cap.toNat := by rw [h.lat_eq]
  rcases huffmanHeader_cases s w with ⟨hcap, e⟩ | ⟨hcap, e⟩
  · obtain ⟨_, e'⟩ := (huffmanHeader_cases s' w).resolve_right (by omega)
    rw [e, e']
    exact h.raiseError hc (fun _ hx => hx.elim) _ _
  · obtain ⟨_, e'⟩ := (huffmanHeader_cases s' w).resolve_left (by omega)
    rw [e, e']
    refine Shadow.blockLoop ?_ hc
    obtain ⟨m, rfl⟩ := h.exists_memory
    exact ⟨rfl, fun x hx => h.reads x hx⟩

theorem storedHeader_shadow {w : Word} (h : Shadow X j s s') (hc : s.tainted = false) (hbad : s.lat.rangesBad = false)
    (h4 : 4 ≤ s.lat.n.toNat) (hdst : ∀ x, X x → InDst s x)
    (hX : (headerMagnitude w).toNat ≤ s.lat.cap.toNat → (headerMagnitude w).toNat ≤ s.lat.n.toNat - 4 →
      ∀ x, X x → Within s.lat.dst (headerMagnitude w).toNat x) :
    Shadow Nowhere j (s.storedHeader w) (s'.storedHeader w) := by
  have hcases' := storedHeader_cases s' w
  have hcap' : s'.lat.cap.toNat = s.lat.cap.toNat := by rw [h.lat_eq]
  have hn' : s'.lat.n.toNat = s.lat.n.toNat := by rw [h.lat_eq]
  rcases storedHeader_cases s w with ⟨hcap, e⟩ | ⟨hcap, hn, e⟩ | ⟨hcap, hn, e⟩
  · obtain ⟨_, e'⟩ := hcases'.resolve_right (by omega)
    rw [e, e']
    exact h.raiseError hc hdst _ _
  · obtain ⟨_, _, e'⟩ := (hcases'.resolve_left (by omega)).resolve_right (by omega)
    rw [e, e']
    exact (h.change (f := fun u => { u with dec := { u.dec with m := headerMagnitude w } }) fun _ _ => rfl).raiseError hc hdst _ _
  · obtain ⟨_, _, e'⟩ := (hcases'.resolve_left (by omega)).resolve_left (by omega)
    have hagree : AgreeBut (WithinFrom s.lat.dst 0 (headerMagnitude w).toNat) s.mem s'.mem := fun x hx =>
      h.reads x fun hx' => hx ((withinFrom_zero _ _ x).mpr (hX hcap hn x hx'))
    have hcopied : Shadow Nowhere j
        { s with
          mem := Memory.copyForward s.lat.dst (s.lat.src + 4) (headerMagnitude w).toNat 0 s.mem
          dec := { s.dec with m := headerMagnitude w, out := headerMagnitude w } }
        { s' with
          mem := Memory.copyForward s'.lat.dst (s'.lat.src + 4) (headerMagnitude w).toNat 0 s'.mem
          dec := { s'.dec with m := headerMagnitude w, out := headerMagnitude w } } := by
      obtain ⟨m, rfl⟩ := h.exists_memory
      refine ⟨rfl, fun x _ => copyForward_agree hagree (fun b c _ hbc hc => ?_) x⟩
      rw [add_four_add_ofNat]
      exact src_ne_dst hbad (by omega) (by omega)
    rw [e, e']
    exact hcopied.complete hc _ _ _

end Decoder

end Sys2Proof.Proofs

/-! PROOFS. Every instruction of DECOMPRESS after its start checks can start again between any two of its accesses
(70_reset_and_hazards.md R958). -/

namespace Sys2Proof.Proofs

open Sys2Proof Sys2Proof.Machine Sys2Proof.Laws

/-! The writes of each instruction. -/

theorem not_writes_loadsTo (r : Reader) (stop : Word) (x : Word) : ¬ Writes (r.loadsTo stop) x :=
  not_writes_readsAt _ _ x

theorem writes_symbolAccesses (s t : State) (x : Word) :
    Writes (symbolAccesses s t) x ↔ Within (s.lat.dst + s.dec.out) (produced s t) x := by
  rw [symbolAccesses, writes_append, writes_writesAt]
  exact or_iff_right (not_writes_loadsTo _ _ x)

theorem writes_distanceAccesses (s t : State) (x : Word) :
    Writes (distanceAccesses s t) x ↔ Within (s.lat.dst + s.dec.out) (produced s t) x := by
  rw [distanceAccesses, writes_append, writes_copiesAt]
  exact or_iff_right (not_writes_loadsTo _ _ x)

theorem within_of_writes_storedByteAccesses {m : Memory} {dst : Word} {k : Nat} {r : Reader} {x : Word}
    (h : Writes (storedByteAccesses m dst k 0 r) x) : Within dst k x := by
  obtain ⟨v, hv⟩ := h
  obtain ⟨j, _, hj, hx⟩ := write_mem_storedByteAccesses _ _ hv
  exact ⟨j, by omega, hx⟩

theorem within_of_writes_storedBlockAccesses {s t : State} {r0 r r1 : Reader} {e : Nat} {x : Word}
    (he : getBits s.mem 8 r = .ok (e, r1)) (h : Writes (storedBlockAccesses s t r0 r) x) :
    Within (s.lat.dst + s.dec.out) (storedCount e s.dec.m.toNat s.dec.out.toNat) x := by
  simp only [storedBlockAccesses, he] at h
  split at h
  · exact absurd h (not_writes_loadsTo _ _ x)
  · rw [writes_append] at h
    exact within_of_writes_storedByteAccesses (h.resolve_left (not_writes_loadsTo _ _ x))

/-- The accesses of a stored block's bytes are what `storedBytes` does. -/
theorem memoryAfter_storedByteAccesses {src m m1 : Memory} {dst : Word} {k i : Nat} {r r' : Reader} (hsame : SamePayload src m r)
    (hapart : ApartFrom dst i k r) (h : storedBytes dst k i m r = .ok (m1, r')) :
    memoryAfter m (storedByteAccesses src dst k i r) = m1 := by
  induction k generalizing i m r with
  | zero => cases h; rfl
  | succ k ih =>
    rw [storedBytes, getBits_of_samePayload hsame] at h
    rw [storedByteAccesses]
    cases hb : getBits src 8 r with
    | error e => rw [hb] at h; cases h
    | ok a =>
      obtain ⟨b, r1⟩ := a
      rw [hb] at h
      have hadv := getBits_advances (by decide) hb
      have hrest : ApartFrom dst (i + 1) k r1 := by
        rw [ApartFrom, hadv.base, hadv.len]
        exact fun j hj c hlo hhi => hapart j hj c (by omega) (by omega)
      simp only
      rw [memoryAfter_append, memoryAfter_of_readOnly _ (not_writes_loadsTo _ _)]
      exact ih ((hapart.samePayload_write hsame _).advance hadv) hrest h

section Engine

variable {X : Word → Prop} {j : Nat} {s s' t t' : State}

/-! The accesses seen from the middle of an instruction. -/

theorem Shadow.loadedTo_eq (h : Shadow X j t t') : loadedTo t' = loadedTo t := by
  rw [loadedTo, loadedTo, h.regs_eq, h.rd_eq]

theorem Shadow.produced_eq {Y : Word → Prop} (hs : Shadow X j s s') (ht : Shadow Y j t t') : produced s' t' = produced s t := by
  rw [produced, produced, hs.dec_eq, ht.dec_eq]

theorem readWord_congr {m m' : Memory} {a : Word} (h : ∀ i, i < 4 → m'.read (a + BitVec.ofNat 32 i) = m.read (a + BitVec.ofNat 32 i)) :
    m'.readWord a = m.readWord a := by
  have h0 : m'.read a = m.read a := by simpa using h 0 (by decide)
  have h1 : m'.read (a + 1) = m.read (a + 1) := h 1 (by decide)
  have h2 : m'.read (a + 2) = m.read (a + 2) := h 2 (by decide)
  have h3 : m'.read (a + 3) = m.read (a + 3) := h 3 (by decide)
  rw [Memory.readWord, Memory.readWord, h0, h1, h2, h3]

theorem dstInv_header (h : s.DstInv) (hp : s.phase = .header) :
    s.lat.op = 2 ∧ s.lat.rangesBad = false ∧ 4 ≤ s.lat.n.toNat := by
  simpa only [State.DstInv, hp] using h

/-- The header is not in the destination. -/
theorem Shadow.header_eq (h : Shadow X j s s') (hX : ∀ x, X x → InDst s x) (hbad : s.lat.rangesBad = false)
    (h4 : 4 ≤ s.lat.n.toNat) : s'.mem.readWord s'.lat.src = s.mem.readWord s.lat.src := by
  rw [h.lat_eq]
  refine readWord_congr fun i hi => h.reads _ fun hx => ?_
  obtain ⟨_, hin⟩ := hX _ hx
  rw [not_inRange_dst_of_src hbad (inRange_of_offset (src_unwrapped hbad) (by omega))] at hin
  cases hin

theorem Shadow.writesAt_eq (h : Shadow Nowhere j t t') (a : Word) (k : Nat) : writesAt t'.mem a k = writesAt t.mem a k :=
  writesAt_congr fun _ _ => h.reads _ id

theorem Shadow.copiesAt_eq (h : Shadow Nowhere j t t') (a b : Word) (k : Nat) : copiesAt t'.mem a b k = copiesAt t.mem a b k :=
  copiesAt_congr a b k fun x => h.reads x id

theorem Shadow.blockAccesses_eq (hs : Shadow X j s s') (hsame : SamePayload s.mem s'.mem s.rd) (ht : Shadow Nowhere j t t') :
    blockAccesses s' t' = blockAccesses s t := by
  unfold blockAccesses
  rw [hs.rd_eq, readBlockType_of_samePayload hsame, ht.loadedTo_eq]
  cases htype : readBlockType s.mem s.rd with
  | error e => rfl
  | ok a =>
    obtain ⟨i, r⟩ := a
    have hr := hsame.advance (readBlockType_advances htype)
    have hstored : storedBlockAccesses s' t' s.rd r = storedBlockAccesses s t s.rd r := by
      unfold storedBlockAccesses
      rw [getBits_of_samePayload hr, ht.loadedTo_eq, hs.lat_eq, hs.dec_eq]
      cases hextra : getBits s.mem 8 r with
      | error e => rfl
      | ok a =>
        obtain ⟨e, r1⟩ := a
        have hr1 := hr.advance (getBits_advances (by decide) hextra)
        simp only
        rw [alignReader_of_samePayload hr1]
        cases halign : alignReader s.mem r1 with
        | error e => rfl
        | ok r2 =>
          simp only
          rw [storedByteAccesses_of_samePayload (hr1.advance (alignReader_advances halign))]
    cases i with
    | storedBlock => exact hstored
    | _ => rfl

theorem accessesBetween_shadow (hs : Shadow X j s s') (hp : s.phase ≠ .start) (hd : s.DstInv) (hready : ReadsStream s → s.readerReady)
    (hX : ∀ x, X x → InDst s x) (ht : Shadow Nowhere j t t') : accessesBetween s' t' = accessesBetween s t := by
  unfold accessesBetween
  rw [hs.phase_eq]
  cases hq : s.phase with
  | idle => rfl
  | start => exact absurd hq hp
  | header =>
    obtain ⟨_, hbad, h4⟩ := dstInv_header hd hq
    simp only [headerAccesses]
    rw [hs.header_eq hX hbad h4, hs.lat_eq, ht.copiesAt_eq]
  | block =>
    have hr : ReadsStream s := .inl hq
    obtain ⟨hbad, _⟩ := outputRoom_of_phase hd hr
    exact hs.blockAccesses_eq (hs.samePayload_of_dst hX (hready hr) hbad) ht
  | rle q count i => simp only [hs.rd_eq, ht.loadedTo_eq]
  | symbol =>
    simp only [symbolAccesses]
    rw [hs.rd_eq, ht.loadedTo_eq, hs.lat_eq, hs.produced_eq ht, hs.dec_eq, ht.writesAt_eq]
  | dist len =>
    simp only [distanceAccesses]
    rw [hs.rd_eq, ht.loadedTo_eq, hs.lat_eq, hs.produced_eq ht, hs.dec_eq, ht.cache_eq, ht.copiesAt_eq]

/-! The instruction from the middle of its accesses. -/

/-- A fetch from the stream, from two states with the same payload. -/
theorem engineStep_shadow_of_fetched {token : Except Stop (Instr × Reader)} (h : Shadow X j s s') (hc : s.tainted = false)
    (hX : ∀ x, X x → InDst s x) (hf : fetch s = fetched s token) (hf' : fetch s' = fetched s' token)
    (hrun : ∀ i r, token = .ok (i, r) → exec i { s with rd := r } = .next t →
      ∃ t', exec i { s' with rd := r } = .next t' ∧ Shadow Nowhere j t t') (ht : engineStep s = .next t) :
    ∃ t', engineStep s' = .next t' ∧ Shadow Nowhere j t t' := by
  cases htoken : token with
  | ok a =>
    obtain ⟨i, r⟩ := a
    rw [engineStep_of_token hf htoken] at ht
    rw [engineStep_of_token hf' htoken]
    exact hrun i r htoken ht
  | error e =>
    rw [engineStep, hf, htoken] at ht
    rw [engineStep, hf', htoken]
    exact h.stopWith hc hX e t ht

theorem Shadow.withReader (h : Shadow X j s s') (r : Reader) : Shadow X j { s with rd := r } { s' with rd := r } :=
  h.change (f := fun u => { u with rd := r }) fun _ _ => rfl

theorem header_shadow (h : Shadow X j s s') (hc : s.tainted = false) (hd : s.DstInv) (hp : s.phase = .header)
    (hX : ∀ x, X x → InDst s x) (hw : ∀ x, X x → Writes (headerAccesses s t) x) (ht : engineStep s = .next t) :
    ∃ t', engineStep s' = .next t' ∧ Shadow Nowhere j t t' := by
  obtain ⟨_, hbad, h4⟩ := dstInv_header hd hp
  have hp' := h.phase_eq.trans hp
  rw [engineStep_of_run (fetch_of_header hp), exec_header hp] at ht
  rw [engineStep_of_run (fetch_of_header hp'), exec_header hp', h.header_eq hX hbad h4]
  cases ht
  simp only [headerAccesses, writes_append, not_writes_readsAt, false_or] at hw
  refine ⟨_, rfl, ?_⟩
  split
  next hhuff =>
    refine huffmanHeader_shadow (h.mono fun x hx => ?_) hc _
    obtain ⟨_, hv⟩ := hw x hx
    rw [if_pos (.inl hhuff)] at hv
    cases hv
  next hstored =>
    refine storedHeader_shadow h hc hbad h4 hX fun hcap hn x hx => ?_
    have hcopy := hw x hx
    rwa [if_neg (by simp only [hstored, Bool.false_eq_true, false_or]; omega), writes_copiesAt] at hcopy

theorem block_shadow (h : Shadow X j s s') (hc : s.tainted = false) (hd : s.DstInv) (hready : s.readerReady) (hp : s.phase = .block)
    (hX : ∀ x, X x → InDst s x) (hw : ∀ x, X x → Writes (blockAccesses s t) x) (ht : engineStep s = .next t) :
    ∃ t', engineStep s' = .next t' ∧ Shadow Nowhere j t t' := by
  have hp' := h.phase_eq.trans hp
  have hroom := outputRoom_of_phase hd (.inl hp)
  obtain ⟨hbad, _⟩ := id hroom
  have hsame := h.samePayload_of_dst hX hready hbad
  have hf' : fetch s' = fetched s' (readBlockType s.mem s.rd) := by
    rw [fetch_of_block hp', h.rd_eq, readBlockType_of_samePayload hsame]
  refine engineStep_shadow_of_fetched h hc hX (fetch_of_block hp) hf' (fun i r htype hexec => ?_) ht
  have hadv := readBlockType_advances htype
  cases i with
  | storedBlock =>
    rw [exec_storedBlock (s := { s with rd := r }) hp] at hexec
    rw [exec_storedBlock (s := { s' with rd := r }) hp']
    refine storedBlockWork_shadow (h.withReader r) hc (readerReady_of_advances hready rfl rfl hadv) hroom hX
      (fun e r1 he x hx => ?_) t hexec
    have hwrites := hw x hx
    simp only [blockAccesses, htype] at hwrites
    exact within_of_writes_storedBlockAccesses he hwrites
  | compressedBlock =>
    rw [exec_compressedBlock (s := { s with rd := r }) hp] at hexec
    rw [exec_compressedBlock (s := { s' with rd := r }) hp']
    refine compressedBlockWork_shadow ((h.withReader r).mono fun x hx => ?_) hc t hexec
    have hwrites := hw x hx
    simp only [blockAccesses, htype] at hwrites
    exact not_writes_loadsTo _ _ x hwrites
  | _ => cases fmt_of_readBlockType htype

theorem rle_shadow {q : RleSeq} {count i : Nat} (h : Shadow X j s s') (hc : s.tainted = false) (hp : s.phase = .rle q count i)
    (hw : ∀ x, X x → Writes (s.rd.loadsTo (loadedTo t)) x) (ht : engineStep s = .next t) :
    ∃ t', engineStep s' = .next t' ∧ Shadow Nowhere j t t' := by
  have h : Shadow Nowhere j s s' := h.mono fun x hx => not_writes_loadsTo _ _ x (hw x hx)
  have hf' : fetch s' = fetched s' (readToken s.mem .clsym s.dec.clTree (fun t => decide (t < 15 ∨ 0 < i)) s.rd) := by
    rw [fetch_of_rle (h.phase_eq.trans hp), h.rd_eq, h.dec_eq, readToken_of_samePayload (h.samePayload s.rd)]
  refine engineStep_shadow_of_fetched h hc (fun _ hx => hx.elim) (fetch_of_rle hp) hf' (fun k r htoken hexec => ?_) ht
  have hfmt := fmt_of_readToken htoken
  rw [exec_of_clsym hfmt] at hexec
  rw [exec_of_clsym hfmt]
  exact codeLength_shadow (s := { s with rd := r }) hp (h.withReader r) hc _ _ t hexec

theorem symbol_shadow (h : Shadow X j s s') (hc : s.tainted = false) (hd : s.DstInv) (hready : s.readerReady) (hp : s.phase = .symbol)
    (hX : ∀ x, X x → InDst s x) (hw : ∀ x, X x → Within (s.lat.dst + s.dec.out) (produced s t) x) (ht : engineStep s = .next t) :
    ∃ t', engineStep s' = .next t' ∧ Shadow Nowhere j t t' := by
  have hp' := h.phase_eq.trans hp
  obtain ⟨hbad, _⟩ := outputRoom_of_phase hd (.inr (.inr (.inl hp)))
  have hsame := h.samePayload_of_dst hX hready hbad
  have hf' : fetch s' = fetched s' (readToken s.mem .llsym s.dec.litTree (fun _ => true) s.rd) := by
    rw [fetch_of_symbol hp', h.rd_eq, h.dec_eq, readToken_of_samePayload hsame]
  refine engineStep_shadow_of_fetched h hc hX (fetch_of_symbol hp) hf' (fun i r htoken hexec => ?_) ht
  have hcounted := (h.withReader r).change (f := fun u => { u with dec := { u.dec with bsym := u.dec.bsym + 1 } }) fun _ _ => rfl
  rcases exec_of_llsym (fmt_of_readToken htoken) { s with rd := r } with ⟨b, rfl⟩ | ⟨hsym, hlen⟩
  · rw [exec_lit (s := { s with rd := r }) hp] at hexec
    cases hexec
    refine ⟨_, exec_lit (s := { s' with rd := r }) hp' b, literal_shadow hcounted hc (fun x hx => ?_) b⟩
    have hwithin := hw x hx
    rw [produced_of_add (k := 1) (by rw [State.literal, symbolLoop_dec]; rfl) (by decide)] at hwithin
    obtain ⟨i, hi, rfl⟩ := hwithin
    obtain rfl : i = 0 := by omega
    exact BitVec.add_zero _
  · rw [hlen, lengthToken_of_symbol (s := { s with rd := r }) hp] at hexec
    cases hexec
    rcases exec_of_llsym (fmt_of_readToken htoken) { s' with rd := r } with ⟨b, rfl⟩ | ⟨_, hlen'⟩
    · have := b.isLt
      simp only [encode] at hsym
      omega
    · refine ⟨_, hlen'.trans (lengthToken_of_symbol (s := { s' with rd := r }) hp' _ _), ?_⟩
      refine ((hcounted.mono fun x hx => ?_).change (f := fun u => { u with phase := .dist _ }) fun _ _ => rfl)
      have hwithin := hw x hx
      rw [produced_of_same (by rfl)] at hwithin
      exact not_within_zero _ _ hwithin

theorem dist_shadow {len : Nat} (h : Shadow X j s s') (hc : s.tainted = false) (hd : s.DstInv) (hready : s.readerReady)
    (hp : s.phase = .dist len) (hX : ∀ x, X x → InDst s x)
    (hw : ∀ x, X x → Within (s.lat.dst + s.dec.out) (produced s t) x) (ht : engineStep s = .next t) :
    ∃ t', engineStep s' = .next t' ∧ Shadow Nowhere j t t' := by
  have hp' := h.phase_eq.trans hp
  obtain ⟨hbad, _, hout⟩ := outputRoom_of_phase hd (.inr (.inr (.inr ⟨len, hp⟩)))
  have hsame := h.samePayload_of_dst hX hready hbad
  have hf' : fetch s' = fetched s' (readToken s.mem .dsym s.dec.distTree (fun _ => true) s.rd) := by
    rw [fetch_of_dist hp', h.rd_eq, h.dec_eq, readToken_of_samePayload hsame]
  refine engineStep_shadow_of_fetched h hc hX (fetch_of_dist hp) hf' (fun i r htoken hexec => ?_) ht
  have hfmt := fmt_of_readToken htoken
  rw [exec_of_dsym hfmt, distanceToken_of_dist (s := { s with rd := r }) hp] at hexec
  rw [exec_of_dsym hfmt, distanceToken_of_dist (s := { s' with rd := r }) hp']
  cases hexec
  exact ⟨_, rfl, distanceWork_shadow (h.withReader r) hc (sym_lt_of_dsym hfmt) hw hout⟩

theorem engineStep_shadow (h : Shadow X j s s') (hc : s.tainted = false) (hd : s.DstInv) (hready : ReadsStream s → s.readerReady)
    (hp : s.phase ≠ .start) (hX : ∀ x, X x → InDst s x) (hw : ∀ x, X x → Writes (accessesBetween s t) x)
    (ht : engineStep s = .next t) : ∃ t', engineStep s' = .next t' ∧ Shadow Nowhere j t t' := by
  cases hq : s.phase with
  | idle =>
    simp only [accessesBetween, hq] at hw
    rw [engineStep, fetch_of_idle hq] at ht
    cases ht
    refine ⟨s', by rw [engineStep, fetch_of_idle (h.phase_eq.trans hq)], h.mono fun x hx => ?_⟩
    obtain ⟨_, hv⟩ := hw x hx
    cases hv
  | start => exact absurd hq hp
  | header =>
    simp only [accessesBetween, hq] at hw
    exact header_shadow h hc hd hq hX hw ht
  | block =>
    simp only [accessesBetween, hq] at hw
    exact block_shadow h hc hd (hready (.inl hq)) hq hX hw ht
  | rle q count i =>
    simp only [accessesBetween, hq] at hw
    exact rle_shadow h hc hq hw ht
  | symbol =>
    simp only [accessesBetween, hq, writes_symbolAccesses] at hw
    exact symbol_shadow h hc hd (hready (.inr (.inr (.inl hq)))) hq hX hw ht
  | dist len =>
    simp only [accessesBetween, hq, writes_distanceAccesses] at hw
    exact dist_shadow h hc hd (hready (.inr (.inr (.inr ⟨len, hq⟩)))) hq hX hw ht

/-! The bytes that the accesses leave. -/

theorem blockLoop_mem (hc : s.tainted = false) : s.blockLoop.mem = s.mem := by
  rcases blockLoop_cases s with ⟨_, e⟩ | ⟨_, e⟩
  · rw [e]
  · rw [e, complete_of_untainted hc]; rfl

theorem symbolLoop_mem (hc : s.tainted = false) : s.symbolLoop.mem = s.mem := by
  rcases symbolLoop_cases s with ⟨_, _, e⟩ | ⟨_, e⟩
  · rw [e]
  · rw [e, blockLoop_mem hc]

/-- Accesses that end in the writes of a region with its final bytes. -/
theorem bytes_of_region {l l' : List Access} {m m' : Memory} {a : Word} {k : Nat} (hl : ∀ x, ¬ Writes l x)
    (hv : ∀ b v, .write b v ∈ l' → v = m'.read b) (hw : ∀ x, Writes l' x ↔ Within a k x) (hm : SameExcept m m' a k) (x : Word) :
    (memoryAfter m (l ++ l')).read x = m'.read x := by
  rw [memoryAfter_append, memoryAfter_of_readOnly m hl]
  refine read_memoryAfter hv (fun y hy => ?_) x
  rw [hw] at hy
  exact read_of_not_within hm hy

theorem writesAt_value {m : Memory} {a b : Word} {v : Byte} {k : Nat} (h : .write b v ∈ writesAt m a k) : v = m.read b := by
  obtain ⟨_, _, _, hv⟩ := write_mem_writesAt h
  exact hv

theorem copiesAt_value {m : Memory} {a b c : Word} {v : Byte} {k : Nat} (h : .write b v ∈ copiesAt m a c k) : v = m.read b := by
  obtain ⟨_, _, _, hv⟩ := write_mem_copiesAt h
  exact hv

theorem header_bytes (hc : s.tainted = false) (hp : s.phase = .header) (ht : engineStep s = .next t) (he : t.regs.errcode = 0)
    (x : Word) : (memoryAfter s.mem (headerAccesses s t)).read x = t.mem.read x := by
  rw [engineStep_of_run (fetch_of_header hp), exec_header hp] at ht
  cases hhuff : headerIsHuffman (s.mem.readWord s.lat.src) with
  | true =>
    rw [hhuff] at ht
    cases ht
    simp only [headerAccesses, hhuff, true_or, if_pos, List.append_nil]
    rw [memoryAfter_of_readOnly _ (not_writes_readsAt _ _)]
    rcases huffmanHeader_cases s (s.mem.readWord s.lat.src) with ⟨_, e⟩ | ⟨_, e⟩
    · rw [if_pos rfl, e] at he
      exact absurd he (raiseError_errcode_ne_zero hc _ _)
    · rw [e, blockLoop_mem]
      exact hc
  | false =>
    rw [hhuff] at ht
    cases ht
    rw [if_neg Bool.false_ne_true] at he ⊢
    rcases storedHeader_cases s (s.mem.readWord s.lat.src) with ⟨_, e⟩ | ⟨_, _, e⟩ | ⟨hcap, hn, e⟩
    · rw [e] at he
      exact absurd he (raiseError_errcode_ne_zero hc _ _)
    · rw [e] at he
      exact absurd he (raiseError_errcode_ne_zero
        (s := { s with dec := { s.dec with m := headerMagnitude (s.mem.readWord s.lat.src) } }) hc _ _)
    · simp only [headerAccesses, hhuff, Bool.false_eq_true, false_or]
      rw [if_neg (by omega), e, complete_of_untainted]
      · exact bytes_of_region (not_writes_readsAt _ _) (fun _ _ => copiesAt_value) (fun y => writes_copiesAt _ _ _ _ y)
          (copyForward_sameExcept _ _ _ _) x
      · exact hc

theorem block_bytes {i : Instr} {r : Reader} (hc : s.tainted = false) (hd : s.DstInv) (hready : s.readerReady) (hp : s.phase = .block)
    (htype : readBlockType s.mem s.rd = .ok (i, r)) (hexec : exec i { s with rd := r } = .next t) (he : t.regs.errcode = 0) (x : Word) :
    (memoryAfter s.mem (blockAccesses s t)).read x = t.mem.read x := by
  have hroom := outputRoom_of_phase hd (.inl hp)
  have hadv := readBlockType_advances htype
  simp only [blockAccesses, htype]
  cases i with
  | storedBlock =>
    rw [exec_storedBlock (s := { s with rd := r }) hp] at hexec
    rcases storedBlockWork_next hexec with ⟨c, info, rfl⟩ | ⟨e, r1, r2, mem, r3, hextra, halign, hbytes, rfl⟩
    · exact absurd he (raiseError_errcode_ne_zero (s := { s with rd := r }) hc _ _)
    · simp only at hextra halign hbytes
      obtain ⟨_, _, _, hcoherent⟩ := id hready
      have hapart := (((apartFrom_of_outputRoom hready hroom (.refl hcoherent)
        (storedCount_le e s.dec.m.toNat s.dec.out.toNat)).advance hadv).advance (getBits_advances (by decide) hextra)).advance
          (alignReader_advances halign)
      simp only [storedBlockAccesses, hextra, halign]
      rw [memoryAfter_append, memoryAfter_of_readOnly _ (not_writes_loadsTo _ _),
        memoryAfter_storedByteAccesses (fun _ _ => rfl) hapart hbytes, blockLoop_mem]
      exact hc
  | compressedBlock =>
    rw [exec_compressedBlock (s := { s with rd := r }) hp] at hexec
    rcases compressedBlockWork_next hexec with ⟨c, info, rfl⟩ | ⟨lens, r1, tree, f, r2, _, _, _, rfl⟩
    · exact absurd he (raiseError_errcode_ne_zero (s := { s with rd := r }) hc _ _)
    · rw [memoryAfter_of_readOnly _ (not_writes_loadsTo _ _)]
  | _ => cases fmt_of_readBlockType htype

theorem codeLength_mem {q : RleSeq} {count i sym y : Nat} (hc : s.tainted = false) (hp : s.phase = .rle q count i)
    (h : s.codeLength sym y = .next t) (he : t.regs.errcode = 0) : t.mem = s.mem := by
  rcases codeLength_next hp h with ⟨u, e, info, rfl, hu⟩ |
    ⟨lens, k, _, ⟨_, rfl⟩ | ⟨_, _, tree, f, r, _, _, rfl⟩ | ⟨_, _, tree, _, rfl⟩⟩
  · exact absurd he (raiseError_errcode_ne_zero (by rw [hu]; exact hc) _ _)
  · rfl
  · rfl
  · exact symbolLoop_mem hc

theorem symbol_sameExcept {i : Instr} (hc : s.tainted = false) (hp : s.phase = .symbol) (hfmt : (encode i).fmt = .llsym)
    (h : exec i s = .next t) : SameExcept s.mem t.mem (s.lat.dst + s.dec.out) (produced s t) := by
  rcases exec_of_llsym hfmt s with ⟨b, rfl⟩ | ⟨_, hlen⟩
  · rw [exec_lit hp] at h
    cases h
    rw [produced_of_add (k := 1) (by rw [State.literal, symbolLoop_dec]; rfl) (by decide), State.literal, symbolLoop_mem]
    · exact write_sameExcept _ _ _
    · exact hc
  · rw [hlen, lengthToken_of_symbol hp] at h
    cases h
    exact sameExcept_refl _ _ _

theorem distance_sameExcept {len c y : Nat} (hc : s.tainted = false) (he : (s.distanceWork len c y).regs.errcode = 0) :
    SameExcept s.mem (s.distanceWork len c y).mem (s.lat.dst + s.dec.out) (produced s (s.distanceWork len c y)) := by
  have hm := s.dec.m.isLt
  rcases distanceWork_cases s len c y with ⟨info, u, hw, hu, _⟩ | ⟨d, cache, _, _, hlen, hw⟩
  · rw [hw] at he
    exact absurd he (raiseError_errcode_ne_zero (by rw [hu]; exact hc) _ _)
  · rw [hw, produced_of_add (k := len) (by rw [symbolLoop_dec]; rfl) (by omega), symbolLoop_mem]
    · exact copyForward_sameExcept _ _ _ _
    · exact hc

theorem engineStep_bytes (hc : s.tainted = false) (hd : s.DstInv) (hready : ReadsStream s → s.readerReady) (hp : s.phase ≠ .start)
    (ht : engineStep s = .next t) (he : t.regs.errcode = 0) (x : Word) :
    (memoryAfter s.mem (accessesBetween s t)).read x = t.mem.read x := by
  rcases engineStep_cases ht with ⟨hq, rfl⟩ | ⟨i, hq, _⟩ | ⟨i, hq, _, _⟩ | ⟨i, r, hq, htype, hexec⟩ |
    ⟨q, count, k, i, r, hq, htoken, hexec⟩ | ⟨i, r, hq, htoken, hexec⟩ | ⟨len, i, r, hq, htoken, hexec⟩ | ⟨e, info, _, _, _, rfl⟩
  · simp only [accessesBetween, hq]
    rfl
  · exact absurd hq hp
  · simp only [accessesBetween, hq]
    exact header_bytes hc hq ht he x
  · simp only [accessesBetween, hq]
    exact block_bytes hc hd (hready (.inl hq)) hq htype hexec he x
  · simp only [accessesBetween, hq]
    rw [exec_of_clsym (fmt_of_readToken htoken)] at hexec
    rw [memoryAfter_of_readOnly _ (not_writes_loadsTo _ _), codeLength_mem (s := { s with rd := r }) hc hq hexec he]
  · simp only [accessesBetween, hq, symbolAccesses]
    exact bytes_of_region (not_writes_loadsTo _ _) (fun _ _ => writesAt_value) (fun y => writes_writesAt _ _ _ y)
      (symbol_sameExcept (s := { s with rd := r }) hc hq (fmt_of_readToken htoken) hexec) x
  · simp only [accessesBetween, hq, distanceAccesses]
    have hfmt := fmt_of_readToken htoken
    rw [exec_of_dsym hfmt, distanceToken_of_dist (s := { s with rd := r }) hq] at hexec
    cases hexec
    exact bytes_of_region (not_writes_loadsTo _ _) (fun _ _ => copiesAt_value) (fun y => writes_copiesAt _ _ _ _ y)
      (distance_sameExcept (s := { s with rd := r }) hc he) x
  · exact absurd he (raiseError_errcode_ne_zero hc _ _)

theorem inDst_of_writes (hd : s.DstInv) (hp : s.phase ≠ .start) (ht : engineStep s = .next t) {x : Word}
    (hx : Writes (accessesBetween s t) x) : InDst s x := by
  obtain ⟨v, hv⟩ := hx
  obtain ⟨hin, _⟩ := accessesBetween_inDst hd ht hv
  have hop : s.phase ≠ .idle → s.lat.op = 2 := fun hidle => by
    unfold State.DstInv at hd
    split at hd
    · exact absurd ‹_› hidle
    · exact absurd ‹_› hp
    all_goals
      obtain ⟨hop, _⟩ := hd
      exact hop
  refine ⟨?_, hin⟩
  by_cases hidle : s.phase = .idle
  · simp only [accessesBetween, hidle] at hv
    cases hv
  · exact decide_eq_true (.inr (hop hidle))

theorem restarts_of_decoding (hc : s.tainted = false) (hd : s.DstInv) (hs : s.StreamInv) (hp : s.phase ≠ .start)
    (ht : engineStep s = .next t) : Restarts s t (accessesBetween s t) where
  again k i := by
    have hready : ReadsStream s → s.readerReady := fun hr => (streamInv_iff s).mp hs hr hc
    have hdst := fun x => inDst_of_writes (x := x) hd hp ht
    have h := midway_shadow s (accessesBetween s t) k i
    obtain ⟨t', ht', hshadow⟩ := engineStep_shadow h hc hd hready hp hdst (fun _ hx => hx) ht
    exact ⟨t', ht', hshadow, accessesBetween_shadow h hp hd hready hdst hshadow⟩
  bytes := engineStep_bytes hc hd (fun hr => (streamInv_iff s).mp hs hr hc) hp ht

end Engine

/-- Settles O43: a header, a block or a token can start again after any of its accesses. -/
theorem ticksRunDecoding : Obligations.TicksRunDecoding := by
  unfold Obligations.TicksRunDecoding
  intro s t hp hd hs hc hm h
  have hstep := engineStep_of_entry hm h
  exact (restarts_of_decoding hc hd hs hp hstep).ticksReach hc hm hstep

end Sys2Proof.Proofs

/-! PROOFS. What the bit writer's fields leave in the stream (45_bit_writer.md R601 to R606): one after another, and every later
bit leaves them as they are. -/

namespace Sys2Proof.Proofs

open Sys2Proof Sys2Proof.Machine Sys2Proof.Laws

/-! Streams. -/

/-- A bit stream: its bits and how many there are. -/
structure Stream where
  bit : Nat → Bool
  size : Nat

/-- A stream with all the bits of another one. -/
structure Stream.Extends (T S : Stream) : Prop where
  size_le : S.size ≤ T.size
  bit_eq : ∀ b, b < S.size → T.bit b = S.bit b

theorem Stream.Extends.refl (S : Stream) : S.Extends S := ⟨le_rfl, fun _ _ => rfl⟩

theorem Stream.Extends.trans {S T U : Stream} (h1 : U.Extends T) (h2 : T.Extends S) : U.Extends S :=
  ⟨h2.size_le.trans h1.size_le, fun b hb => (h1.bit_eq b (hb.trans_le h2.size_le)).trans (h2.bit_eq b hb)⟩

/-- The fields of a list stand in the stream, one after another from a bit on. -/
def FieldsAt (S : Stream) : Nat → List (Nat × Nat) → Prop
  | pos, [] => pos ≤ S.size
  | pos, f :: rest => (∀ i, i < f.2 → S.bit (pos + i) = f.1.testBit i) ∧ FieldsAt S (pos + f.2) rest

theorem fieldBits_cons (f : Nat × Nat) (l : List (Nat × Nat)) : fieldBits (f :: l) = f.2 + fieldBits l := by
  simp [fieldBits]

theorem FieldsAt.end_le {S : Stream} {pos : Nat} {l : List (Nat × Nat)} (h : FieldsAt S pos l) : pos + fieldBits l ≤ S.size := by
  induction l generalizing pos with
  | nil => exact h
  | cons f rest ih =>
    obtain ⟨_, hrest⟩ := h
    rw [fieldBits_cons, ← Nat.add_assoc]
    exact ih hrest

theorem fieldsAt_append {S : Stream} {pos : Nat} {l m : List (Nat × Nat)} :
    FieldsAt S pos (l ++ m) ↔ FieldsAt S pos l ∧ FieldsAt S (pos + fieldBits l) m := by
  induction l generalizing pos with
  | nil => exact ⟨fun h => ⟨(Nat.le_add_right _ _).trans h.end_le, h⟩, fun h => h.2⟩
  | cons f rest ih => rw [fieldBits_cons, ← Nat.add_assoc, List.cons_append, FieldsAt, FieldsAt, ih, and_assoc]

theorem FieldsAt.mono {S T : Stream} (hT : T.Extends S) {pos : Nat} {l : List (Nat × Nat)} (h : FieldsAt S pos l) :
    FieldsAt T pos l := by
  induction l generalizing pos with
  | nil => exact h.trans hT.size_le
  | cons f rest ih =>
    obtain ⟨hbits, hrest⟩ := h
    have hend := hrest.end_le
    exact ⟨fun i hi => (hT.bit_eq _ (by omega)).trans (hbits i hi), ih hrest⟩

/-! The stream that a writer has written. -/

/-- The bits written so far (R606). -/
def written (w : Work) : Stream := ⟨w.bit, w.wr.position⟩

/-- A writer of COMPRESS that meets its register invariant (R600). -/
structure Writable (w : Work) : Prop where
  clean : w.wr.Clean
  mode : w.wr.mode = .write

/-- Fields whose values fit their widths (R601). -/
def FieldsFit (l : List (Nat × Nat)) : Prop := ∀ f ∈ l, f.2 ≤ 32 ∧ f.1 < 2 ^ f.2

theorem fieldsFit_append {l m : List (Nat × Nat)} (hl : FieldsFit l) (hm : FieldsFit m) : FieldsFit (l ++ m) := fun f hf =>
  (List.mem_append.mp hf).elim (hl f) (hm f)

/-- The fields of a list appended to the stream, with the rest of the work as before. -/
structure Appends (l : List (Nat × Nat)) (w w' : Work) : Prop where
  writable : Writable w'
  position : w'.wr.position = w.wr.position + fieldBits l
  written_extends : (written w').Extends (written w)
  fields : FieldsAt (written w') w.wr.position l
  only : ∃ m r, w' = { w with mem := m, wr := r }

theorem Appends.refl {w : Work} (h : Writable w) : Appends [] w w := ⟨h, rfl, .refl _, le_refl w.wr.position, w.mem, w.wr, rfl⟩

theorem Appends.trans {l m : List (Nat × Nat)} {w w1 w2 : Work} (h1 : Appends l w w1) (h2 : Appends m w1 w2) :
    Appends (l ++ m) w w2 := by
  have hpos := h1.position
  refine ⟨h2.writable, by rw [h2.position, hpos, fieldBits_append, Nat.add_assoc], h2.written_extends.trans h1.written_extends,
    fieldsAt_append.mpr ⟨h1.fields.mono h2.written_extends, hpos ▸ h2.fields⟩, ?_⟩
  obtain ⟨m1, r1, rfl⟩ := h1.only
  obtain ⟨m2, r2, rfl⟩ := h2.only
  exact ⟨m2, r2, rfl⟩

theorem putBits_only {v k : Nat} {w w' : Work} (h : putBits v k w = .ok w') : ∃ m r, w' = { w with mem := m, wr := r } := by
  unfold putBits emitWord at h
  simp only at h
  split at h
  · split at h
    · cases h
    · cases h
      exact ⟨_, _, rfl⟩
  · cases h
    exact ⟨_, _, rfl⟩

theorem putBits_appends {v k : Nat} {w w' : Work} (hw : Writable w) (hk : k ≤ 32) (hv : v < 2 ^ k) (h : putBits v k w = .ok w') :
    Appends [(v, k)] w w' := by
  obtain ⟨hok, hno⟩ := putBitsAppendsToStream v k w hw.clean hw.mode hk hv
  have hroom : w.wr.k.toNat + k < 32 ∨ 4 * (w.wr.wwords.toNat + 1) ≤ w.wr.cap.toNat := by
    by_contra hfull
    rw [hno (by omega) (by omega)] at h
    cases h
  obtain ⟨u, hu, hclean, hpos, hold, hnew⟩ := hok hroom
  obtain rfl : w' = u := Run.ok.inj (h.symm.trans hu)
  refine ⟨⟨hclean, ?_⟩, by rw [hpos]; simp [fieldBits], ⟨by simp only [written]; omega, hold⟩, ⟨hnew, ?_⟩, putBits_only h⟩
  · rw [(emits_of_putBits_ok h).mode, hw.mode]
  · exact hpos.ge

theorem putFields_appends {l : List (Nat × Nat)} {w w' : Work} (hw : Writable w) (hl : FieldsFit l) (h : putFields l w = .ok w') :
    Appends l w w' := by
  induction l generalizing w with
  | nil =>
    cases h
    exact .refl hw
  | cons f rest ih =>
    obtain ⟨w1, hbits, hrest⟩ := andThen_eq_ok h
    obtain ⟨hk, hv⟩ := hl f List.mem_cons_self
    have h1 := putBits_appends hw hk hv hbits
    exact h1.trans (ih h1.writable (fun g hg => hl g (List.mem_cons_of_mem _ hg)) hrest)

theorem alignUp_eq (pos : Nat) : pos + (8 - pos % 8) % 8 = alignUp pos := by
  unfold alignUp
  omega

theorem alignWriter_appends {w w' : Work} (hw : Writable w) (h : alignWriter w = .ok w') :
    ∃ l, Appends l w w' ∧ w'.wr.position = alignUp w.wr.position :=
  ⟨_, putBits_appends hw (by omega) (Nat.two_pow_pos _) h, (alignWriter_position h).trans (alignUp_eq _)⟩

/-! The stream in memory (R604). -/

/-- The words of a payload at `base`. -/
def payload (mem : Memory) (base : Word) (words : Nat) : Stream := ⟨streamBit mem base, 32 * words⟩

theorem finalFlush_payload {w w' : Work} (hw : Writable w) (h : finalFlush w = .ok w') :
    (payload w'.mem w'.wr.base w'.wr.words.toNat).Extends (written w) := by
  unfold finalFlush at h
  split at h
  next hk =>
    obtain ⟨w1, hemit, hrest⟩ := andThen_eq_ok h
    cases hrest
    have hcap := emitWord_ok_capacity hemit
    have hwords := emitWord_words hemit
    have hemits := emitWord_emits w.wr.acc w
    rw [emitWord_write hw.mode hcap] at hemit hemits
    cases hemit
    rw [wwords_toNat, wwords_toNat] at hwords
    have hlt := w.wr.k.isLt
    refine ⟨?_, fun b hb => ?_⟩
    · simp only [written, payload, Writer.position, wwords_toNat] at hwords ⊢
      omega
    · simp only [written, Writer.position] at hb
      by_cases hold : b < 32 * w.wr.wwords.toNat
      · exact (streamBit_of_emits hemits hw.clean hold).trans (bit_eq_streamBit hold).symm
      · obtain ⟨i, rfl⟩ := Nat.exists_eq_add_of_le (not_lt.mp hold)
        exact (streamBit_writeWord _ _ _ _ (by omega)).trans (bit_eq_pending rfl i).symm
  next hk =>
    cases h
    have hzero : w.wr.k.toNat = 0 := by omega
    refine ⟨by simp [written, payload, Writer.position, hzero], fun b hb => ?_⟩
    simp only [written, Writer.position, hzero] at hb
    exact (bit_eq_streamBit (by omega)).symm

end Sys2Proof.Proofs

/-! PROOFS. The blocks of a payload as the stream holds them (44_block_encoder.md R560 to R562): the codes of a compressed block,
its fields, and the part of the source that a block stands for. -/

namespace Sys2Proof.Proofs

open Sys2Proof Sys2Proof.Machine Sys2Proof.Laws

/-! The fields of a compressed block from its code lengths. -/

/-- The reversed code of a symbol and its length (43_huffman_builder.md R508). -/
def codeField (lens : List Nat) (lmax sym : Nat) : Nat × Nat := ((reversedCodes lens lmax).getD sym 0, lens.getD sym 0)

/-- The literal/length code lengths that a block sends (R553). -/
def litSeq (lens : List Nat) : List Nat := lens.take (litCountOf lens)

/-- The distance code lengths that a block sends (R553). -/
def distSeq (lens : List Nat) : List Nat := lens.take (distCountOf lens)

/-- An item in the code of the code lengths `cl` (R561). -/
def itemBits (cl : List Nat) (i : Item) : List (Nat × Nat) := [codeField cl 7 i.t, (i.x, i.e)]

/-- A buffered symbol in the codes of the lengths `ll` and `dl` (R562). -/
def symBits (ll dl : List Nat) : Sym → List (Nat × Nat)
  | .literal b => [codeField ll 14 b.toNat]
  | .copy lcode lextra dcode dextra =>
    [codeField ll 14 (256 + lcode.toNat), (lextra.toNat, lenExtra lcode.toNat),
      codeField dl 14 dcode.toNat, (dextra.toNat, distExtra dcode.toNat)]

/-- The table part of a compressed block after its type bit (R561). -/
def tableBits (ll dl cl : List Nat) : List (Nat × Nat) :=
  cl.map (fun l => (l, 3)) ++ [(litCountOf ll - 257, 6)] ++ (rle (litSeq ll)).flatMap (itemBits cl) ++
    [(distCountOf dl - 1, 6)] ++ (rle (distSeq dl)).flatMap (itemBits cl)

/-- The three codes of a block, with a code for every item that its table part sends. -/
structure Codes (ll dl cl : List Nat) : Prop where
  lit : CompleteCode ll 320 14
  dist : CompleteCode dl 64 14
  lengths : CompleteCode cl 20 7
  items : ∀ i ∈ rle (litSeq ll) ++ rle (distSeq dl), 0 < cl.getD i.t 0

/-- The extra bits of a buffered symbol fit its codes (42_symbol_mapping.md R451, R456). -/
def SymFits : Sym → Prop
  | .literal _ => True
  | .copy lcode lextra dcode dextra => lextra.toNat < 2 ^ lenExtra lcode.toNat ∧ dextra.toNat < 2 ^ distExtra dcode.toNat

/-- A buffered symbol that both codes have. -/
structure SymCoded (ll dl : List Nat) (y : Sym) : Prop where
  lit : 0 < ll.getD y.litSym 0
  dist : ∀ c ∈ y.distSym, 0 < dl.getD c 0
  fits : SymFits y

theorem CompleteCode.getD_le {lens : List Nat} {n lmax : Nat} (h : CompleteCode lens n lmax) (s : Nat) : lens.getD s 0 ≤ lmax := by
  obtain ⟨_, hle, _⟩ := h
  by_cases hs : s < lens.length
  · rw [List.getD_eq_getElem _ _ hs]
    exact hle _ (List.getElem_mem hs)
  · rw [List.getD_eq_default _ _ (by omega)]
    exact Nat.zero_le _

theorem reversedCodes_lt (lens : List Nat) (lmax s : Nat) : (reversedCodes lens lmax).getD s 0 < 2 ^ lens.getD s 0 := by
  rw [reversedCodes, List.getD_eq_getElem?_getD, List.getElem?_zipWith]
  cases h1 : lens[s]? with
  | none => exact Nat.two_pow_pos _
  | some l =>
    cases h2 : (canon lens lmax)[s]? with
    | none => exact Nat.two_pow_pos _
    | some c =>
      rw [List.getD_eq_getElem?_getD, h1]
      exact revBits_lt l c

/-! The values fit their fields. -/

theorem codeField_fits {lens : List Nat} {n lmax : Nat} (h : CompleteCode lens n lmax) (hmax : lmax ≤ 14) (s : Nat) :
    FieldsFit [codeField lens lmax s] :=
  List.forall_mem_singleton.mpr ⟨(CompleteCode.getD_le h s).trans (hmax.trans (by decide)), reversedCodes_lt _ _ _⟩

theorem fieldsFit_flatMap {α : Type} {f : α → List (Nat × Nat)} {l : List α} (hf : ∀ a ∈ l, FieldsFit (f a)) :
    FieldsFit (l.flatMap f) := fun x hx => by
  obtain ⟨a, ha, hxa⟩ := List.mem_flatMap.mp hx
  exact hf a ha x hxa

theorem runExtra_le : ∀ t < 20, runExtra t ≤ 7 := by decide

theorem itemBits_fit {cl : List Nat} (h : CompleteCode cl 20 7) {i : Item} (hi : ItemFits i) : FieldsFit (itemBits cl i) := by
  obtain ⟨ht, he, hx⟩ := hi
  have hextra := runExtra_le i.t ht
  exact fieldsFit_append (codeField_fits h (by decide) i.t) (List.forall_mem_singleton.mpr ⟨by omega, hx⟩)

theorem symBits_fit {ll dl : List Nat} (hll : CompleteCode ll 320 14) (hdl : CompleteCode dl 64 14) {y : Sym} (hy : SymFits y) :
    FieldsFit (symBits ll dl y) := by
  cases y with
  | literal b => exact codeField_fits hll le_rfl _
  | copy lcode lextra dcode dextra =>
    obtain ⟨hl, hd⟩ := hy
    have h1 := codeField_fits hll le_rfl (256 + lcode.toNat)
    have h2 : FieldsFit [(lextra.toNat, lenExtra lcode.toNat)] := List.forall_mem_singleton.mpr ⟨lenExtra_le lcode.isLt, hl⟩
    have h3 := codeField_fits hdl le_rfl dcode.toNat
    have h4 : FieldsFit [(dextra.toNat, distExtra dcode.toNat)] := List.forall_mem_singleton.mpr ⟨distExtra_le dcode.isLt, hd⟩
    exact fieldsFit_append h1 (fieldsFit_append h2 (fieldsFit_append h3 h4))

theorem fieldsFit_of_lt {v k : Nat} (hk : k ≤ 32) (hv : v < 2 ^ k) : FieldsFit [(v, k)] :=
  List.forall_mem_singleton.mpr ⟨hk, hv⟩

theorem usedCount_le (l : List Nat) : usedCount l ≤ l.length := by
  induction l with
  | nil => exact le_rfl
  | cons x rest ih =>
    rw [usedCount, List.length_cons]
    split_ifs <;> omega

theorem litCountOf_bounds {ll : List Nat} (h : CompleteCode ll 320 14) : 257 ≤ litCountOf ll ∧ litCountOf ll ≤ 320 := by
  obtain ⟨hlen, _⟩ := h
  have hle := usedCount_le ll
  unfold litCountOf
  omega

theorem distCountOf_bounds {dl : List Nat} (h : CompleteCode dl 64 14) : 1 ≤ distCountOf dl ∧ distCountOf dl ≤ 64 := by
  obtain ⟨hlen, _⟩ := h
  have hle := usedCount_le dl
  unfold distCountOf
  omega

theorem rle_fit {lens : List Nat} {n : Nat} (h : CompleteCode lens n 14) (k : Nat) : ∀ i ∈ rle (lens.take k), ItemFits i := by
  obtain ⟨_, hle, _⟩ := h
  exact rleFrom_fit fun v hv => hle v (List.mem_of_mem_take hv)

theorem Codes.items_fit {ll dl cl : List Nat} (h : Codes ll dl cl) : ∀ i ∈ rle (litSeq ll) ++ rle (distSeq dl), ItemFits i :=
  fun i hi => (List.mem_append.mp hi).elim (rle_fit h.lit _ i) (rle_fit h.dist _ i)

theorem tableBits_fit {ll dl cl : List Nat} (h : Codes ll dl cl) : FieldsFit (tableBits ll dl cl) := by
  have hlit := litCountOf_bounds h.lit
  have hdist := distCountOf_bounds h.dist
  obtain ⟨_, hle, _⟩ := h.lengths
  have hitems := fun i hi => itemBits_fit h.lengths (h.items_fit i hi)
  refine fieldsFit_append (fieldsFit_append (fieldsFit_append (fieldsFit_append ?_ ?_) ?_) ?_) ?_
  · exact List.forall_mem_map.mpr fun l hl => fieldsFit_of_lt (by decide) (Nat.lt_succ_of_le (hle l hl)) _ List.mem_cons_self
  · exact fieldsFit_of_lt (by decide) (by omega)
  · exact fieldsFit_flatMap fun i hi => hitems i (List.mem_append_left _ hi)
  · exact fieldsFit_of_lt (by decide) (by omega)
  · exact fieldsFit_flatMap fun i hi => hitems i (List.mem_append_right _ hi)

/-! The symbols of a block replay the source. -/

/-- A match of `len` bytes `d` behind byte `o` of the source, which goes on at byte `o'`. -/
structure CopyStep (e : Source) (len d o o' : Nat) : Prop where
  dist_pos : 0 < d
  back : d ≤ o
  len_pos : 0 < len
  end_le : o + len ≤ e.n
  agree : ∀ i, i < len → e.src (o - d + i) = e.src (o + i)
  end_eq : o' = o + len

/-- A symbol that stands for the source bytes between two positions, with the cache before and after it. -/
def SymStep (e : Source) : Sym → Nat × Cache → Nat × Cache → Prop
  | .literal b, a, a' => a.1 < e.n ∧ b = e.src a.1 ∧ a' = (a.1 + 1, a.2)
  | .copy lcode lextra dcode dextra, a, a' =>
    ∃ d, unmapDist a.2 dcode.toNat dextra.toNat = some (d, a'.2) ∧ CopyStep e (lenBase lcode.toNat + lextra.toNat) d a.1 a'.1

/-- A list of symbols that stands for the source bytes between two positions. -/
def Replays (e : Source) : List Sym → Nat × Cache → Nat × Cache → Prop
  | [], a, b => a = b
  | y :: rest, a, b => ∃ m, SymStep e y a m ∧ Replays e rest m b

theorem SymStep.advances {e : Source} {y : Sym} {a b : Nat × Cache} (h : SymStep e y a b) : a.1 < b.1 ∧ b.1 ≤ e.n := by
  cases y with
  | literal v =>
    obtain ⟨hlt, _, rfl⟩ := h
    exact ⟨Nat.lt_succ_self _, hlt⟩
  | copy lcode lextra dcode dextra =>
    obtain ⟨d, _, hc⟩ := h
    have h1 := hc.len_pos
    have h2 := hc.end_le
    have h3 := hc.end_eq
    omega

theorem Replays.append {e : Source} {ys zs : List Sym} {a b c : Nat × Cache} (h1 : Replays e ys a b) (h2 : Replays e zs b c) :
    Replays e (ys ++ zs) a c := by
  induction ys generalizing a with
  | nil =>
    cases h1
    exact h2
  | cons y rest ih =>
    obtain ⟨m, hy, hrest⟩ := h1
    exact ⟨m, hy, ih hrest⟩

/-- Each symbol stands for at least one byte. -/
theorem Replays.length_le {e : Source} {ys : List Sym} {a b : Nat × Cache} (h : Replays e ys a b) : a.1 + ys.length ≤ b.1 := by
  induction ys generalizing a with
  | nil =>
    cases h
    exact le_rfl
  | cons y rest ih =>
    obtain ⟨m, hy, hrest⟩ := h
    have hlt := hy.advances.1
    have hle := ih hrest
    rw [List.length_cons]
    omega

/-! Blocks. -/

/-- A place in the decoding of a payload: the stream bit, the bytes of output, and the cache. -/
structure Place where
  pos : Nat
  out : Nat
  cache : Cache

/-- The bytes of a stored block from byte `o` of the source on (R560). -/
def byteFields (e : Source) (o k : Nat) : List (Nat × Nat) := (List.range k).map fun j => ((e.src (o + j)).toNat, 8)

/-- A stored block between two places (R560). -/
structure StoredBlockAt (e : Source) (S : Stream) (a b : Place) (k : Nat) : Prop where
  pos : 0 < k
  le : k ≤ 8447
  full : 8192 ≤ k ∨ b.out = e.n
  count : FieldsAt S a.pos [(0, 1), (k - 8192, 8)]
  bytes : FieldsAt S (alignUp (a.pos + 9)) (byteFields e a.out k)
  pos_eq : b.pos = alignUp (a.pos + 9) + 8 * k
  out_eq : b.out = a.out + k
  cache_eq : b.cache = a.cache

/-- A compressed block between two places (R561, R562). -/
structure CompressedBlockAt (e : Source) (S : Stream) (a b : Place) (ll dl cl : List Nat) (syms : List Sym) : Prop where
  codes : Codes ll dl cl
  type : FieldsAt S a.pos [(1, 1)]
  table : FieldsAt S (a.pos + 1) (tableBits ll dl cl)
  symbols : FieldsAt S (a.pos + 1 + fieldBits (tableBits ll dl cl)) (syms.flatMap (symBits ll dl))
  coded : ∀ y ∈ syms, SymCoded ll dl y
  replays : Replays e syms (a.out, a.cache) (b.out, b.cache)
  some_symbol : syms ≠ []
  le : syms.length ≤ 8192
  full : syms.length = 8192 ∨ b.out = e.n
  pos_eq : b.pos = a.pos + 1 + fieldBits (tableBits ll dl cl) + fieldBits (syms.flatMap (symBits ll dl))

/-- A block of the stream between two places, the last of which is inside the source. -/
def BlockAt (e : Source) (S : Stream) (a b : Place) : Prop :=
  b.out ≤ e.n ∧ ((∃ k, StoredBlockAt e S a b k) ∨ ∃ ll dl cl syms, CompressedBlockAt e S a b ll dl cl syms)

theorem BlockAt.mono {e : Source} {S T : Stream} (hT : T.Extends S) {a b : Place} (h : BlockAt e S a b) : BlockAt e T a b := by
  obtain ⟨hle, ⟨k, h⟩ | ⟨ll, dl, cl, syms, h⟩⟩ := h
  · exact ⟨hle, .inl ⟨k, { h with count := h.count.mono hT, bytes := h.bytes.mono hT }⟩⟩
  · exact ⟨hle, .inr ⟨ll, dl, cl, syms,
      { h with type := h.type.mono hT, table := h.table.mono hT, symbols := h.symbols.mono hT }⟩⟩

theorem BlockAt.out_lt {e : Source} {S : Stream} {a b : Place} (h : BlockAt e S a b) : a.out < b.out := by
  obtain ⟨_, ⟨k, h⟩ | ⟨ll, dl, cl, syms, h⟩⟩ := h
  · have hk := h.pos
    have hout := h.out_eq
    omega
  · have hlen := h.replays.length_le
    have hpos := List.length_pos_of_ne_nil h.some_symbol
    simp only at hlen
    omega

/-- The blocks of a stream between two places. -/
def Blocks (e : Source) (S : Stream) : Place → Place → Prop := Relation.ReflTransGen (BlockAt e S)

theorem Blocks.mono {e : Source} {S T : Stream} (hT : T.Extends S) {a b : Place} (h : Blocks e S a b) : Blocks e T a b :=
  Relation.ReflTransGen.mono (fun _ _ => BlockAt.mono hT) a b h

/-- Where a payload begins. -/
def firstPlace : Place := ⟨0, 0, Cache.empty⟩

end Sys2Proof.Proofs

/-! PROOFS. The tables of a block (44_block_encoder.md R552 to R555): the codes built from the frequencies have a code for every
buffered symbol and every item, and the compressed block's fields are those of its code lengths. -/

namespace Sys2Proof.Proofs

open Sys2Proof Sys2Proof.Machine Sys2Proof.Laws

/-! Frequencies. -/

theorem countEq_pos {s : Nat} {l : List Nat} (h : s ∈ l) : 0 < countEq s l := by
  rw [countEq_eq_count]
  exact List.count_pos_iff.mpr h

theorem countEq_append (s : Nat) (l m : List Nat) : countEq s (l ++ m) = countEq s l + countEq s m := by
  rw [countEq_eq_count, countEq_eq_count, countEq_eq_count, List.count_append]

theorem countEq_singleton (s i : Nat) : countEq s [i] = if i = s then 1 else 0 := rfl

theorem bumpFreq_length (t : List (BitVec 14)) (i : Nat) : (bumpFreq t i).length = t.length := by
  induction t generalizing i with
  | nil => rfl
  | cons f rest ih =>
    cases i with
    | zero => rfl
    | succ i => rw [bumpFreq, List.length_cons, ih, List.length_cons]

theorem tableNat_cons_zero {n : Nat} (f : BitVec n) (rest : List (BitVec n)) : tableNat (f :: rest) 0 = f.toNat := rfl

theorem tableNat_cons_succ {n : Nat} (f : BitVec n) (rest : List (BitVec n)) (s : Nat) :
    tableNat (f :: rest) (s + 1) = tableNat rest s := rfl

theorem tableNat_bumpFreq {t : List (BitVec 14)} {i : Nat} (hi : i < t.length) (hmax : tableNat t i < 8192) (s : Nat) :
    tableNat (bumpFreq t i) s = tableNat t s + if i = s then 1 else 0 := by
  induction t generalizing i s with
  | nil => exact absurd hi (Nat.not_lt_zero i)
  | cons f rest ih =>
    cases i with
    | zero =>
      cases s with
      | zero =>
        have hone : (1 : BitVec 14).toNat = 1 := rfl
        rw [tableNat_cons_zero] at hmax
        rw [bumpFreq, tableNat_cons_zero, tableNat_cons_zero, if_pos rfl, BitVec.toNat_add, hone]
        omega
      | succ s => rw [bumpFreq, tableNat_cons_succ, tableNat_cons_succ, if_neg (by omega), Nat.add_zero]
    | succ i =>
      cases s with
      | zero => rw [bumpFreq, tableNat_cons_zero, tableNat_cons_zero, if_neg (by omega), Nat.add_zero]
      | succ s =>
        rw [bumpFreq, tableNat_cons_succ, tableNat_cons_succ, ih (Nat.lt_of_succ_lt_succ hi) (by rwa [tableNat_cons_succ] at hmax)]
        simp only [Nat.add_right_cancel_iff]

/-- A frequency table that counts a list of symbols of an alphabet. -/
structure Counts (t : List (BitVec 14)) (n : Nat) (syms : List Nat) : Prop where
  length : t.length = n
  count : ∀ s, tableNat t s = countEq s syms

theorem counts_zero (n : Nat) : Counts (List.replicate n 0) n [] where
  length := List.length_replicate
  count s := by
    rw [tableNat, List.getD_eq_getElem?_getD, List.getElem?_replicate]
    split <;> rfl

theorem Counts.bump {t : List (BitVec 14)} {n : Nat} {syms : List Nat} (h : Counts t n syms) {i : Nat} (hi : i < n)
    (hfew : syms.length < 8192) : Counts (bumpFreq t i) n (syms ++ [i]) where
  length := (bumpFreq_length t i).trans h.length
  count s := by
    have hmax : tableNat t i < 8192 := by
      rw [h.count, countEq_eq_count]
      exact List.count_le_length.trans_lt hfew
    rw [tableNat_bumpFreq (by rw [h.length]; exact hi) hmax, h.count, countEq_append, countEq_singleton]

theorem Counts.getD_pos {t : List (BitVec 14)} {n : Nat} {syms : List Nat} (h : Counts t n syms) {s : Nat} (hs : s ∈ syms) :
    0 < (t.map BitVec.toNat).getD s 0 := by
  have hpos := countEq_pos hs
  rw [← h.count, tableNat] at hpos
  rwa [show (0 : Nat) = BitVec.toNat (0 : BitVec 14) from rfl, List.getD_map]

/-! The code lengths of a block. -/

/-- The literal/length code lengths of the buffered symbols (R552). -/
def litLens (w : Work) : List Nat := (buildLengths (w.buf.litFreq.map BitVec.toNat) 320 14).lens

/-- The distance code lengths of the buffered symbols (R552). -/
def distLens (w : Work) : List Nat := (buildLengths (w.buf.distFreq.map BitVec.toNat) 64 14).lens

/-- The items of both sequences (R554). -/
def blockItems (w : Work) : List Item := rle (litSeq (litLens w)) ++ rle (distSeq (distLens w))

/-- The code lengths of the code-length code (R555). -/
def clLens (w : Work) : List Nat := (buildLengths (clFreqOf (blockItems w)) 20 7).lens

theorem clFreqOf_getD {items : List Item} {i : Item} (hi : i ∈ items) (ht : i.t < 20) : 0 < (clFreqOf items).getD i.t 0 := by
  have hlen : i.t < (clFreqOf items).length := by
    rw [clFreqOf, List.length_map, List.length_range]
    exact ht
  rw [List.getD_eq_getElem _ _ hlen]
  simp only [clFreqOf, List.getElem_map, List.getElem_range]
  exact countEq_pos (List.mem_map_of_mem hi)

theorem buildTables_codes {w : Work} (hlit : w.buf.litFreq.length = 320) (hdist : w.buf.distFreq.length = 64) :
    Codes (litLens w) (distLens w) (clLens w) := by
  obtain ⟨hll, _⟩ := buildLengthsIsCompleteCode (w.buf.litFreq.map BitVec.toNat) 320 14 (by decide) (by simpa using hlit)
  obtain ⟨hdl, _⟩ := buildLengthsIsCompleteCode (w.buf.distFreq.map BitVec.toNat) 64 14 (by decide) (by simpa using hdist)
  obtain ⟨hcl, _, hused⟩ := buildLengthsIsCompleteCode (clFreqOf (blockItems w)) 20 7 (by decide)
    (by rw [clFreqOf, List.length_map, List.length_range]; rfl)
  refine ⟨hll, hdl, hcl, fun i hi => hused _ (clFreqOf_getD hi ?_)⟩
  obtain ⟨ht, _⟩ := (List.mem_append.mp hi).elim (rle_fit hll _ i) (rle_fit hdl _ i)
  exact ht

/-! The tables hold the code lengths and the codes. -/

theorem tableNat_ofNat {n : Nat} {l : List Nat} {i : Nat} (h : l.getD i 0 < 2 ^ n) :
    tableNat (l.map (BitVec.ofNat n)) i = l.getD i 0 := by
  rw [tableNat, show (0 : BitVec n) = BitVec.ofNat n 0 from rfl, List.getD_map, BitVec.toNat_ofNat, Nat.mod_eq_of_lt h]

theorem tableNat_lens {n lmax k : Nat} {lens : List Nat} (h : CompleteCode lens n lmax) (hk : lmax < 2 ^ k) (s : Nat) :
    tableNat (lens.map (BitVec.ofNat k)) s = lens.getD s 0 := tableNat_ofNat ((CompleteCode.getD_le h s).trans_lt hk)

theorem tableNat_codes {n lmax : Nat} {lens : List Nat} (h : CompleteCode lens n lmax) (s : Nat) :
    tableNat ((reversedCodes lens lmax).map (BitVec.ofNat lmax)) s = (reversedCodes lens lmax).getD s 0 :=
  tableNat_ofNat ((reversedCodes_lt lens lmax s).trans_le (Nat.pow_le_pow_right Nat.two_pos (CompleteCode.getD_le h s)))

theorem lensOf_ofNat {n lmax k : Nat} {lens : List Nat} (h : CompleteCode lens n lmax) (hk : lmax < 2 ^ k) :
    lensOf (lens.map (BitVec.ofNat k)) = lens := by
  obtain ⟨_, hle, _⟩ := h
  rw [lensOf, List.map_map]
  refine (List.map_congr_left fun l hl => ?_).trans (List.map_id lens)
  exact (BitVec.toNat_ofNat l k).trans (Nat.mod_eq_of_lt ((hle l hl).trans_lt hk))

theorem distExtra_of_cached : ∀ c < 3, distExtra c = 0 := by decide

/-! The tables that `buildTables` writes, from the code lengths. -/

section Registers

variable (w : Work)

theorem buildTables_litLen : (buildTables w).tab.litLen = (litLens w).map (BitVec.ofNat 4) := rfl

theorem buildTables_litCode : (buildTables w).tab.litCode = (reversedCodes (litLens w) 14).map (BitVec.ofNat 14) := rfl

theorem buildTables_distLen : (buildTables w).tab.distLen = (distLens w).map (BitVec.ofNat 4) := rfl

theorem buildTables_distCode : (buildTables w).tab.distCode = (reversedCodes (distLens w) 14).map (BitVec.ofNat 14) := rfl

theorem buildTables_clLen : (buildTables w).tab.clLen = (clLens w).map (BitVec.ofNat 3) := by
  simp only [buildTables, clLens, blockItems, litSeq, distSeq, litLens, distLens, Config.litN, Config.litMaxLen, Config.distN,
    Config.distMaxLen, Config.clN, Config.clMaxLen]

theorem buildTables_clCode : (buildTables w).tab.clCode = (reversedCodes (clLens w) 7).map (BitVec.ofNat 7) := by
  simp only [buildTables, clLens, blockItems, litSeq, distSeq, litLens, distLens, Config.litN, Config.litMaxLen, Config.distN,
    Config.distMaxLen, Config.clN, Config.clMaxLen]

theorem buildTables_litRle : (buildTables w).tab.litRle = (rle (litSeq (litLens w))).map Item.store := rfl

theorem buildTables_distRle : (buildTables w).tab.distRle = (rle (distSeq (distLens w))).map Item.store := rfl

theorem buildTables_syms :
    (buildTables w).buf.symbuf.take (buildTables w).buf.nsym.toNat = w.buf.symbuf.take w.buf.nsym.toNat := rfl

end Registers

section Tables

variable {w : Work} (h : Codes (litLens w) (distLens w) (clLens w))
include h

theorem itemFields_buildTables {i : Item} (hi : ItemFits i) : itemFields (buildTables w).tab i.store = itemBits (clLens w) i := by
  obtain ⟨ht, he, hx⟩ := hi
  have hextra := runExtra_le i.t ht
  have hsym : i.store.sym.toNat = i.t := Nat.mod_eq_of_lt (by omega)
  have hwidth : i.store.nextra.toNat = i.e := Nat.mod_eq_of_lt (by omega)
  have hvalue : i.store.extra.toNat = i.x :=
    Nat.mod_eq_of_lt (hx.trans_le (Nat.pow_le_pow_right Nat.two_pos (show i.e ≤ 7 by omega)))
  rw [itemFields, hsym, hwidth, hvalue, buildTables_clCode, buildTables_clLen, tableNat_codes h.lengths,
    tableNat_lens h.lengths (by decide), itemBits, codeField]

theorem litField_buildTables (s : Nat) :
    (tableNat (buildTables w).tab.litCode s, tableNat (buildTables w).tab.litLen s) = codeField (litLens w) 14 s := by
  rw [buildTables_litCode, buildTables_litLen, tableNat_codes h.lit, tableNat_lens h.lit (by decide), codeField]

theorem distField_buildTables (s : Nat) :
    (tableNat (buildTables w).tab.distCode s, tableNat (buildTables w).tab.distLen s) = codeField (distLens w) 14 s := by
  rw [buildTables_distCode, buildTables_distLen, tableNat_codes h.dist, tableNat_lens h.dist (by decide), codeField]

theorem symFields_buildTables (y : Sym) : symFields (buildTables w).tab y = symBits (litLens w) (distLens w) y := by
  cases y with
  | literal b => rw [symFields, litField_buildTables h, symBits]
  | copy lcode lextra dcode dextra =>
    have hextra : (if 3 ≤ dcode.toNat then distExtra dcode.toNat else 0) = distExtra dcode.toNat := by
      split
      · rfl
      · exact (distExtra_of_cached _ (by omega)).symm
    simp only [symFields, litField_buildTables h, distField_buildTables h, hextra, symBits]

theorem itemFields_all {items : List Item} (hi : ∀ i ∈ items, ItemFits i) :
    (items.map Item.store).flatMap (itemFields (buildTables w).tab) = items.flatMap (itemBits (clLens w)) := by
  rw [List.flatMap_map]
  exact List.flatMap_congr fun i hmem => itemFields_buildTables h (hi i hmem)

theorem headFields_buildTables :
    headFields (buildTables w).tab = [(1, 1)] ++ tableBits (litLens w) (distLens w) (clLens w) := by
  have hcl : ((clLens w).map (BitVec.ofNat 3)).map (fun l => (l.toNat, 3)) = (clLens w).map fun l => (l, 3) := by
    conv_rhs => rw [← lensOf_ofNat h.lengths (k := 3) (by decide), lensOf, List.map_map]
    rfl
  have hitems := itemFields_all h (items := rle (litSeq (litLens w))) fun i hi => h.items_fit i (List.mem_append_left _ hi)
  have hitems' := itemFields_all h (items := rle (distSeq (distLens w))) fun i hi => h.items_fit i (List.mem_append_right _ hi)
  rw [headFields, buildTables_litRle, buildTables_distRle, hitems, hitems', buildTables_clLen, buildTables_litLen,
    buildTables_distLen, hcl, lensOf_ofNat h.lit (by decide), lensOf_ofNat h.dist (by decide), tableBits]
  simp only [List.append_assoc]

theorem compressedFields_buildTables {syms : List Sym} (hsyms : w.buf.symbuf.take w.buf.nsym.toNat = syms) :
    compressedFields (buildTables w) =
      [(1, 1)] ++ tableBits (litLens w) (distLens w) (clLens w) ++ syms.flatMap (symBits (litLens w) (distLens w)) := by
  rw [compressedFields, headFields_buildTables h, buildTables_syms, hsyms]
  refine congrArg _ ?_
  exact List.flatMap_congr fun y _ => symFields_buildTables h y

end Tables

theorem buildTables_symCoded {w : Work} {syms : List Sym} (hlit : Counts w.buf.litFreq 320 (syms.map Sym.litSym))
    (hdist : Counts w.buf.distFreq 64 (syms.flatMap Sym.distSym)) {y : Sym} (hy : y ∈ syms) (hfits : SymFits y) :
    SymCoded (litLens w) (distLens w) y := by
  obtain ⟨_, _, hll⟩ := buildLengthsIsCompleteCode (w.buf.litFreq.map BitVec.toNat) 320 14 (by decide) (by simpa using hlit.length)
  obtain ⟨_, _, hdl⟩ := buildLengthsIsCompleteCode (w.buf.distFreq.map BitVec.toNat) 64 14 (by decide) (by simpa using hdist.length)
  exact ⟨hll _ (hlit.getD_pos (List.mem_map_of_mem hy)),
    fun c hc => hdl _ (hdist.getD_pos (List.mem_flatMap.mpr ⟨y, hy, hc⟩)), hfits⟩

end Sys2Proof.Proofs

/-! PROOFS. What the compressor keeps from symbol to symbol (44_block_encoder.md R550 to R564): the blocks in the stream stand for
the source up to the buffered symbols, and those stand for it up to the scan's position. -/

namespace Sys2Proof.Proofs

open Sys2Proof Sys2Proof.Machine Sys2Proof.Laws

/-! The invariant. -/

/-- The blocks written, then the symbols buffered, stand for the source up to byte `p`. -/
structure Buffered (e : Source) (p : Nat) (w : Work) : Prop where
  writable : Writable w
  blocks : Blocks e (written w) firstPlace ⟨w.wr.position, w.buf.blockStart.toNat, w.snap⟩
  replays : Replays e w.buf.symbuf (w.buf.blockStart.toNat, w.snap) (p, w.cache)
  count : w.buf.nsym.toNat = w.buf.symbuf.length
  few : w.buf.symbuf.length ≤ 8192
  fits : ∀ y ∈ w.buf.symbuf, SymFits y
  pos : w.buf.blockStart.toNat + w.buf.span.toNat = p
  le : p ≤ e.n
  cacheOk : w.cache.Ok
  snapOk : w.snap.Ok
  litFreq : Counts w.buf.litFreq 320 (w.buf.symbuf.map Sym.litSym)
  distFreq : Counts w.buf.distFreq 64 (w.buf.symbuf.flatMap Sym.distSym)

/-- The same with room for one more symbol. -/
structure Coding (e : Source) (p : Nat) (w : Work) : Prop extends Buffered e p w where
  room : w.buf.symbuf.length < 8192

theorem Buffered.symbols {e : Source} {p : Nat} {w : Work} (h : Buffered e p w) :
    w.buf.symbuf.take w.buf.nsym.toNat = w.buf.symbuf := by
  rw [h.count, List.take_length]

theorem Coding.withFinder {e : Source} {p : Nat} {w : Work} (h : Coding e p w) (mf : MatchFinder) :
    Coding e p { w with mf := mf } := { h with writable := ⟨h.writable.clean, h.writable.mode⟩ }

theorem Buffered.buildTables {e : Source} {p : Nat} {w : Work} (h : Buffered e p w) : Buffered e p (buildTables w) :=
  { h with writable := ⟨h.writable.clean, h.writable.mode⟩ }

/-! A block written (R560 to R562). -/

/-- The stream after a block that stands for the source up to byte `p`, the next block beginning with the cache `c`. -/
structure BlockWritten (e : Source) (p : Nat) (c : Cache) (w v : Work) : Prop where
  writable : Writable v
  blocks : Blocks e (written v) firstPlace ⟨v.wr.position, p, c⟩
  only : ∃ m r, v = { w with mem := m, wr := r }

theorem fieldBits_byteFields (e : Source) (o k : Nat) : fieldBits (byteFields e o k) = 8 * k := by
  rw [byteFields, fieldBits_map, List.length_range]

theorem byteFields_fit (e : Source) (o k : Nat) : FieldsFit (byteFields e o k) :=
  List.forall_mem_map.mpr fun j _ => fieldsFit_of_lt (by decide) (e.src (o + j)).isLt _ List.mem_cons_self

section Emission

variable {e : Source} {p : Nat} {w v : Work} (hw : Buffered e p w) (hsome : w.buf.symbuf ≠ [])
  (hfull : w.buf.symbuf.length = 8192 ∨ p = e.n)
include hw hsome hfull

theorem emitStored_written (hspan : w.buf.span.toNat ≤ 8447) (h : emitStored e w = .ok v) : BlockWritten e p w.snap w v := by
  have hlen := hw.replays.length_le
  have hpos := hw.pos
  have hsyms := List.length_pos_of_ne_nil hsome
  obtain ⟨w1, hhead, h⟩ := andThen_eq_ok h
  obtain ⟨w2, halign, hbytes⟩ := andThen_eq_ok h
  have h1 := putFields_appends hw.writable
    (fieldsFit_append (m := [(w.buf.span.toNat - 8192, 8)]) (fieldsFit_of_lt (by decide) (by decide))
      (fieldsFit_of_lt (by decide) (show _ < 256 by omega))) hhead
  obtain ⟨l, h2, hpos2⟩ := alignWriter_appends h1.writable halign
  have h3 := putFields_appends h2.writable (byteFields_fit e _ _) hbytes
  have hall := (h1.trans h2).trans h3
  have hpos1 : w1.wr.position = w.wr.position + 9 := h1.position
  rw [hpos1] at hpos2
  refine ⟨hall.writable, ?_, hall.only⟩
  refine (hw.blocks.mono hall.written_extends).tail ⟨hw.le, .inl ⟨w.buf.span.toNat, ?_⟩⟩
  simp only at hlen
  exact {
    pos := by omega
    le := hspan
    full := hfull.imp (fun _ => by omega) id
    count := h1.fields.mono (h2.trans h3).written_extends
    bytes := by
      have hb := h3.fields
      rw [hpos2] at hb
      exact hb
    pos_eq := by rw [h3.position, hpos2, fieldBits_byteFields]
    out_eq := hpos.symm
    cache_eq := rfl }

theorem emitCompressed_written {ll dl cl : List Nat} (hcodes : Codes ll dl cl) (hcoded : ∀ y ∈ w.buf.symbuf, SymCoded ll dl y)
    (hfields : compressedFields w = [(1, 1)] ++ tableBits ll dl cl ++ w.buf.symbuf.flatMap (symBits ll dl))
    (h : emitCompressed w = .ok v) : BlockWritten e p w.cache w v := by
  have htype : FieldsFit [(1, 1)] := fieldsFit_of_lt (by decide) (by decide)
  have hsyms : FieldsFit (w.buf.symbuf.flatMap (symBits ll dl)) :=
    fieldsFit_flatMap fun y hy => symBits_fit hcodes.lit hcodes.dist (hw.fits y hy)
  rw [emitCompressed, hfields] at h
  have hall := putFields_appends hw.writable (fieldsFit_append (fieldsFit_append htype (tableBits_fit hcodes)) hsyms) h
  obtain ⟨hhead, hsymbols⟩ := fieldsAt_append.mp hall.fields
  obtain ⟨htype, htable⟩ := fieldsAt_append.mp hhead
  refine ⟨hall.writable, ?_, hall.only⟩
  refine (hw.blocks.mono hall.written_extends).tail ⟨hw.le, .inr ⟨ll, dl, cl, w.buf.symbuf, ?_⟩⟩
  exact {
    codes := hcodes
    type := htype
    table := htable
    symbols := by
      rw [fieldBits_append, ← Nat.add_assoc] at hsymbols
      exact hsymbols
    coded := hcoded
    replays := hw.replays
    some_symbol := hsome
    le := hw.few
    full := hfull
    pos_eq := by
      rw [hall.position, fieldBits_append, fieldBits_append, ← Nat.add_assoc, ← Nat.add_assoc]
      rfl }

end Emission

/-! The bookkeeping after a block (R552, R563, R564). -/

theorem startBlock_coding {e : Source} {p : Nat} {c : Cache} {w v : Work} (h : BlockWritten e p c w v) (hc : c.Ok)
    (hpos : w.buf.blockStart.toNat + w.buf.span.toNat = p) (hle : p ≤ e.n) (hn : e.n < 2 ^ 31) :
    Coding e p (startBlock { v with cache := c, snap := c }) ∧ (startBlock { v with cache := c, snap := c }).buf.symbuf = [] := by
  obtain ⟨m, r, hv⟩ := h.only
  have hstart : (v.buf.blockStart + v.buf.span).toNat = p := by
    rw [hv, BitVec.toNat_add]
    simp only
    omega
  have hblocks := h.blocks
  rw [← hstart] at hblocks
  refine ⟨⟨?_, Nat.zero_lt_succ _⟩, rfl⟩
  exact {
    writable := ⟨h.writable.clean, h.writable.mode⟩
    blocks := hblocks
    replays := by rw [← hstart]; rfl
    count := rfl
    few := Nat.zero_le _
    fits := fun y hy => absurd hy List.not_mem_nil
    pos := hstart
    le := hle
    cacheOk := hc
    snapOk := hc
    litFreq := counts_zero 320
    distFreq := counts_zero 64 }

theorem lenExtra_le_width : ∀ i < 64, lenExtra i ≤ 14 := by decide

theorem distExtra_le_width : ∀ c < 64, distExtra c ≤ 17 := by decide

theorem lt_of_lt_extra {x k n : Nat} (hx : x < 2 ^ k) (hk : k ≤ n) : x < 2 ^ n :=
  hx.trans_le (Nat.pow_le_pow_right Nat.two_pos hk)

theorem distSyms_length_le (syms : List Sym) : (syms.flatMap Sym.distSym).length ≤ syms.length := by
  induction syms with
  | nil => exact le_rfl
  | cons y rest ih =>
    have hy : y.distSym.length ≤ 1 := by cases y <;> simp [Sym.distSym]
    rw [List.flatMap_cons, List.length_append, List.length_cons]
    omega

section Flush

variable {e : Source} {p : Nat} {w v : Work} (hn : e.n < 2 ^ 31)
include hn

theorem flush_coding (hw : Buffered e p w) (hsome : w.buf.symbuf ≠ []) (hfull : w.buf.symbuf.length = 8192 ∨ p = e.n)
    (h : flush e w = .ok v) : Coding e p v ∧ v.buf.symbuf = [] := by
  unfold flush at h
  simp only at h
  split at h
  next hchoice =>
    obtain ⟨u, hemit, hu⟩ := andThen_eq_ok h
    obtain ⟨hspan, _⟩ := of_decide_eq_true hchoice
    have hwritten := emitStored_written hw.buildTables hsome hfull hspan hemit
    have hsnap : u.snap = (buildTables w).snap := by
      obtain ⟨m, r, rfl⟩ := hwritten.only
      rfl
    rw [← hsnap] at hwritten
    cases hu
    exact startBlock_coding hwritten (hsnap ▸ hw.snapOk) hw.pos hw.le hn
  next =>
    obtain ⟨u, hemit, hu⟩ := andThen_eq_ok h
    have hcodes := buildTables_codes hw.litFreq.length hw.distFreq.length
    have hwritten := emitCompressed_written hw.buildTables hsome hfull hcodes
      (fun y hy => buildTables_symCoded hw.litFreq hw.distFreq hy (hw.fits y hy)) (compressedFields_buildTables hcodes hw.symbols)
      hemit
    have hcache : u.cache = (buildTables w).cache := by
      obtain ⟨m, r, rfl⟩ := hwritten.only
      rfl
    rw [← hcache] at hwritten
    cases hu
    exact startBlock_coding hwritten (hcache ▸ hw.cacheOk) hw.pos hw.le hn

theorem flushIfFull_coding (hw : Buffered e p w) (h : flushIfFull e w = .ok v) : Coding e p v := by
  have hcount := hw.count
  unfold flushIfFull at h
  split at h
  next hfull =>
    have hlen : w.buf.symbuf.length = 8192 := hcount.symm.trans hfull
    exact (flush_coding hn hw (List.ne_nil_of_length_pos (by omega)) (.inl hlen) h).1
  next hfull =>
    cases h
    exact ⟨hw, lt_of_le_of_ne hw.few (hcount ▸ hfull)⟩

/-- After the last flush the blocks stand for the whole source. -/
theorem flushFinal_blocks (hw : Coding e e.n w) (h : flushFinal e w = .ok v) :
    Writable v ∧ ∃ c, Blocks e (written v) firstPlace ⟨v.wr.position, e.n, c⟩ := by
  have hend : Coding e e.n v ∧ v.buf.symbuf = [] := by
    have hcount := hw.count
    unfold flushFinal at h
    split at h
    next hsome => exact flush_coding hn hw.toBuffered (List.ne_nil_of_length_pos (by omega)) (.inr rfl) h
    next hnone =>
      cases h
      exact ⟨hw, List.eq_nil_of_length_eq_zero (by omega)⟩
  obtain ⟨hv, hempty⟩ := hend
  have hrep := hv.replays
  rw [hempty] at hrep
  have hstart : v.buf.blockStart.toNat = e.n := congrArg Prod.fst hrep
  exact ⟨hv.writable, v.snap, hstart ▸ hv.blocks⟩

/-! Buffering (R550, R551). -/

theorem buffered_push {y : Sym} {q : Nat} {c : Cache} (hw : Coding e p w) (hstep : SymStep e y (p, w.cache) (q, c)) (hfit : SymFits y)
    (hc : c.Ok) {b : SymBuffer} (hsym : b.symbuf = w.buf.symbuf ++ [y]) (hnsym : b.nsym = w.buf.nsym + 1)
    (hstart : b.blockStart = w.buf.blockStart) (hspan : b.span = w.buf.span + BitVec.ofNat 32 (q - p))
    (hlit : b.litFreq = bumpFreq w.buf.litFreq y.litSym)
    (hdist : Counts b.distFreq 64 (b.symbuf.flatMap Sym.distSym)) :
    Buffered e q { w with cache := c, buf := b } := by
  have hroom := hw.room
  have hcount := hw.count
  have hpos := hw.pos
  obtain ⟨hlt, hle⟩ := hstep.advances
  simp only at hlt hle
  have hlen : b.symbuf.length = w.buf.symbuf.length + 1 := by rw [hsym, List.length_append]; rfl
  exact {
    writable := ⟨hw.writable.clean, hw.writable.mode⟩
    blocks := by
      simp only [hstart]
      exact hw.blocks
    replays := by
      simp only [hsym, hstart]
      exact hw.replays.append ⟨_, hstep, rfl⟩
    count := by
      have hone : (1 : BitVec 14).toNat = 1 := rfl
      simp only [hnsym, hlen, BitVec.toNat_add, hone]
      omega
    few := by simp only [hlen]; omega
    fits := fun z hz => by
      simp only [hsym] at hz
      rcases List.mem_append.mp hz with hz | hz
      · exact hw.fits z hz
      · rwa [List.mem_singleton.mp hz]
    pos := by
      simp only [hstart, hspan, BitVec.toNat_add, BitVec.toNat_ofNat]
      omega
    le := hle
    cacheOk := hc
    snapOk := hw.snapOk
    litFreq := by
      simp only [hsym, hlit, List.map_append]
      exact hw.litFreq.bump (litSym_lt y) (by rw [List.length_map]; exact hroom)
    distFreq := hdist }

theorem putChar_coding (hw : Coding e p w) (hp : p < e.n) (h : putChar e (e.src p) w = .ok v) : Coding e (p + 1) v := by
  rw [putChar_eq] at h
  have hspan : BitVec.ofNat 32 (p + 1 - p) = 1 := by rw [Nat.add_sub_cancel_left]; rfl
  have hstep : SymStep e (.literal (e.src p)) (p, w.cache) (p + 1, w.cache) := ⟨hp, rfl, rfl⟩
  refine flushIfFull_coding hn (buffered_push hn hw hstep trivial hw.cacheOk (b := (bufferByte (e.src p) w).buf)
    (congrArg (· ++ _) hw.symbols) rfl rfl (congrArg (w.buf.span + ·) hspan.symm) rfl ?_) h
  simp only [bufferByte, SymBuffer.push, hw.symbols, List.flatMap_append]
  exact (List.append_nil (w.buf.symbuf.flatMap Sym.distSym)).symm ▸ hw.distFreq

theorem putLenDist_coding {len d : Nat} (hw : Coding e p w) (hm : MatchAt e p (len, d)) (h : putLenDist e len d w = .ok v) :
    Coding e (p + len) v := by
  have h3 : 3 ≤ len := hm.three_le
  have hlim : len ≤ min 17010 (e.n - p) := hm.len_le
  have hmin : 3 ≤ d := hm.minDist_le
  have hback : d ≤ p := hm.dist_le
  have hagree : ∀ i, i < len → e.src (p - d + i) = e.src (p + i) := hm.agree
  obtain ⟨⟨_, hi, _⟩, _⟩ := lenCode_isGreatest h3
  have hx := lenCode_extra_lt h3 (show len ≤ 17010 by omega)
  obtain ⟨hunmap, hcache, hc, hy⟩ := unmapDistInvertsMapDist w.cache d hw.cacheOk hmin hm.dist_le_window
  have h1 : (BitVec.ofNat 6 (lenCode len).1).toNat = (lenCode len).1 := Nat.mod_eq_of_lt (by omega)
  have h2 : (BitVec.ofNat 14 (lenCode len).2).toNat = (lenCode len).2 :=
    Nat.mod_eq_of_lt (lt_of_lt_extra hx (lenExtra_le_width _ (by omega)))
  have h5 : (BitVec.ofNat 6 (mapDist w.cache d).1.1).toNat = (mapDist w.cache d).1.1 := Nat.mod_eq_of_lt (by omega)
  have h4 : (BitVec.ofNat 17 (mapDist w.cache d).1.2).toNat = (mapDist w.cache d).1.2 :=
    Nat.mod_eq_of_lt (lt_of_lt_extra hy (distExtra_le_width _ hc))
  rw [putLenDist_eq] at h
  have hspan : BitVec.ofNat 32 (p + len - p) = BitVec.ofNat 32 len := by rw [Nat.add_sub_cancel_left]
  refine flushIfFull_coding hn (buffered_push hn hw (q := p + len) (c := (mapDist w.cache d).2)
    (y := .copy (BitVec.ofNat 6 (lenCode len).1) (BitVec.ofNat 14 (lenCode len).2) (BitVec.ofNat 6 (mapDist w.cache d).1.1)
      (BitVec.ofNat 17 (mapDist w.cache d).1.2)) ?_ ?_ hcache
    (b := (bufferMatch len (lenCode len) (mapDist w.cache d) w).buf) (congrArg (· ++ _) hw.symbols) rfl rfl
    (congrArg (w.buf.span + ·) hspan.symm) ?_ ?_) h
  · refine ⟨d, by rw [h5, h4]; exact hunmap, ?_⟩
    rw [h1, h2, lenBase_add_lenCode h3]
    exact ⟨by omega, hback, by omega, by omega, hagree, rfl⟩
  · exact ⟨by rw [h1, h2]; exact hx, by rw [h5, h4]; exact hy⟩
  · simp only [Sym.litSym, h1, bufferMatch]
  · simp only [bufferMatch, SymBuffer.push, hw.symbols, List.flatMap_append]
    have hbump := hw.distFreq.bump hc ((distSyms_length_le _).trans_lt hw.room)
    have hsym : Sym.distSym (.copy (BitVec.ofNat 6 (lenCode len).1) (BitVec.ofNat 14 (lenCode len).2)
        (BitVec.ofNat 6 (mapDist w.cache d).1.1) (BitVec.ofNat 17 (mapDist w.cache d).1.2)) = [(mapDist w.cache d).1.1] :=
      congrArg (fun c => [c]) h5
    rw [List.flatMap_singleton, hsym]
    exact hbump

end Flush

/-! The scan and the attempt. -/

/-- A run of one work, seen as a pair of equal runs. -/
theorem runRel_self {A : Work → Prop} {r : Run} (h : ∀ v, r = .ok v → A v) :
    RunRel (fun w w' => w' = w ∧ A w) (fun _ _ => True) r r := by
  cases r with
  | ok w => exact ⟨rfl, h w rfl⟩
  | noSpace w => exact trivial

theorem coding_scanRel {e : Source} (hn : e.n < 2 ^ 31) : ScanRel e e (fun p w w' => w' = w ∧ Coding e p w) (fun _ _ => True) where
  n_eq := rfl
  small := hn
  mark a c h := by
    obtain ⟨rfl, h⟩ := h
    exact ⟨rfl, h.withFinder _⟩
  insert q h := by
    obtain ⟨rfl, h⟩ := h
    obtain ⟨mf, hins⟩ := insertPos_keeps e q _
    exact ⟨rfl, hins ▸ h.withFinder mf⟩
  found q h := by
    obtain ⟨rfl, _⟩ := h
    rfl
  literal h hp := by
    obtain ⟨rfl, h⟩ := h
    exact runRel_self fun v hv => putChar_coding hn h hp hv
  copy h hm := by
    obtain ⟨rfl, h⟩ := h
    exact runRel_self fun v hv => putLenDist_coding hn h hm hv

theorem cacheEmpty_ok : Cache.empty.Ok := by
  refine (cache_ok_iff _).mpr ⟨⟨?_, ?_, ?_⟩, ?_, ?_, ?_⟩
  · exact fun h => absurd rfl h
  · exact fun h => absurd rfl h
  · exact fun h => absurd rfl h
  all_goals exact fun _ => rfl

theorem initWork_coding {s : State} (hs : s.lat.checkCompress = none) (level : Level) :
    Coding s.source 0 (s.initWork level .write) := by
  obtain ⟨hbad, hcap⟩ := checkCompress_none hs
  have hdst := dst_unwrapped hbad
  have h4 : (4 : Word).toNat = 4 := rfl
  refine ⟨?_, Nat.zero_lt_succ _⟩
  exact {
    writable := by
      refine ⟨⟨Nat.one_pos, Nat.zero_le _, ?_⟩, rfl⟩
      simp only [State.initWork, BitVec.toNat_add, h4]
      omega
    blocks := Relation.ReflTransGen.refl
    replays := rfl
    count := rfl
    few := Nat.zero_le _
    fits := fun y hy => absurd hy List.not_mem_nil
    pos := rfl
    le := Nat.zero_le _
    cacheOk := cacheEmpty_ok
    snapOk := cacheEmpty_ok
    litFreq := counts_zero 320
    distFreq := counts_zero 64 }

/-- What a Huffman attempt that does not run out of space leaves in memory stands for the source. -/
theorem attempt_blocks {s : State} (hs : s.lat.checkCompress = none) {level : Level} {w : Work}
    (h : s.attempt level .write = .ok w) :
    ∃ b, b.out = s.lat.n.toNat ∧ Blocks s.source (payload w.mem w.wr.base w.wr.words.toNat) firstPlace b := by
  have hn : s.source.n < 2 ^ 31 := small_of_checkCompress hs
  obtain ⟨v, hscan, hflush⟩ := andThen_eq_ok h
  have hrun := (coding_scanRel hn).scan (B := fun v v' => v' = v ∧ Writable v ∧ ∃ c, Blocks s.source (written v) firstPlace
    ⟨v.wr.position, s.source.n, c⟩) rfl ⟨⟨rfl, initWork_coding hs level⟩, rfl, rfl, rfl⟩ fun u u' hu => by
      obtain ⟨rfl, hu⟩ := hu
      exact runRel_self fun v hv => flushFinal_blocks hn hu hv
  rw [hscan] at hrun
  obtain ⟨_, hv, c, hblocks⟩ := hrun
  exact ⟨_, rfl, hblocks.mono (finalFlush_payload hv hflush)⟩

end Sys2Proof.Proofs

/-! PROOFS. A decoder at a place of a payload that stands for a source (47_block_decoder.md R702, 46_bit_reader.md R650): what its
reads give, and what its writes keep. -/

namespace Sys2Proof.Proofs

open Sys2Proof Sys2Proof.Machine Sys2Proof.Laws

/-! Turns of the engine. -/

/-- The engine comes from one state to another in finitely many turns. -/
def Reaches (s t : State) : Prop := ∃ k, engineTurns k s = .next t

theorem Reaches.refl (s : State) : Reaches s s := ⟨0, rfl⟩

theorem Reaches.step {s t v : State} (hm : s.made = 0) (h : engineStep s = .next t) (ht : Reaches t v) : Reaches s v := by
  obtain ⟨k, hk⟩ := ht
  have hs : ({ s with made := 0 } : State) = s := by rw [← hm]
  exact ⟨k + 1, (engineTurns_succ ((step_engine_entry s).trans (hs.symm ▸ h)) k).trans hk⟩

/-! Fields as the reader sees them. -/

/-- The bits of a reader's payload (R652). -/
def readable (mem : Memory) (r : Reader) : Stream := ⟨streamBit mem r.base, r.bits⟩

theorem readable_of_consumed {mem : Memory} {k : Nat} {r r' : Reader} (h : Consumed mem k r r') : readable mem r' = readable mem r := by
  rw [readable, readable, h.base, h.bits_eq]

section Reads

variable {mem : Memory} {r : Reader}

theorem streamNat_of_fieldsAt {S : Stream} (hS : (readable mem r).Extends S) {pos v k : Nat} {rest : List (Nat × Nat)} (hv : v < 2 ^ k)
    (h : FieldsAt S pos ((v, k) :: rest)) : streamNat mem r.base pos k = v := by
  obtain ⟨hbits, _⟩ := h.mono hS
  refine Nat.eq_of_testBit_eq fun i => ?_
  rw [testBit_streamNat]
  by_cases hi : i < k
  · rw [decide_eq_true hi, Bool.true_and]
    exact hbits i hi
  · rw [decide_eq_false hi, Bool.false_and]
    exact (Nat.testBit_lt_two_pow (hv.trans_le (Nat.pow_le_pow_right Nat.two_pos (not_lt.mp hi)))).symm

theorem getBits_of_fieldsAt {S : Stream} (hS : (readable mem r).Extends S) (hc : r.Coherent mem) {v k : Nat}
    {rest : List (Nat × Nat)} (hk : k ≤ 32) (hv : v < 2 ^ k) (h : FieldsAt S r.position ((v, k) :: rest)) :
    ∃ r', getBits mem k r = .ok (v, r') ∧ Consumed mem k r r' := by
  obtain ⟨_, hrest⟩ := id h
  have hend := hrest.end_le.trans hS.size_le
  have hroom : r.position + k ≤ r.bits := (Nat.le_add_right _ _).trans hend
  obtain ⟨r', hget, hr⟩ := exists_getBits hc hk hroom
  rw [streamNat_of_fieldsAt hS hv h] at hget
  exact ⟨r', hget, hr⟩

theorem readToken_of_fieldsAt {S : Stream} (hS : (readable mem r).Extends S) (hc : r.Coherent mem) {f : Format} {lens : List Nat}
    {n lmax sym x k : Nat} {tree : List Slot} {p : Nat → Bool} {i : Instr} {rest : List (Nat × Nat)}
    (halphabet : (n, lmax) ∈ [(320, 14), (64, 14), (20, 7)]) (hcode : CompleteCode lens n lmax)
    (htree : buildTree lens n lmax = some tree) (hsym : sym < n) (hused : 0 < lens.getD sym 0)
    (hwidth : (if p sym then extraBits f sym else 0) = k) (hk : k ≤ 32) (hx : x < 2 ^ k) (hdec : decodeSym f sym x = .ok i)
    (h : FieldsAt S r.position (codeField lens lmax sym :: (x, k) :: rest)) :
    ∃ r', readToken mem f tree p r = .ok (i, r') ∧ Consumed mem (lens.getD sym 0 + k) r r' := by
  obtain ⟨hbits, hextra⟩ := h
  have hroom := ((Nat.le_add_right _ _).trans hextra.end_le).trans hS.size_le
  obtain ⟨_, r1, hbuild, hget, hpos, hc1, hbase, hlen⟩ := treeWalkDecodesEveryCode lens n lmax sym mem r halphabet hcode hsym hused hc
    hroom fun j hj => (hS.bit_eq _ (lt_of_lt_of_le (Nat.add_lt_add_left hj _)
      ((Nat.le_add_right _ _).trans hextra.end_le))).trans (hbits j hj)
  obtain rfl := Option.some.inj (htree.symm.trans hbuild)
  have hr1 : Consumed mem (lens.getD sym 0) r r1 := ⟨hpos, hc1, hbase, hlen⟩
  have hS1 : (readable mem r1).Extends S := (readable_of_consumed hr1).symm ▸ hS
  have hpos1 : r1.position = r.position + (codeField lens lmax sym).2 := hpos
  rw [← hpos1] at hextra
  obtain ⟨r2, hget2, hr2⟩ := getBits_of_fieldsAt hS1 hc1 hk hx hextra
  exact ⟨r2, readToken_of hget (by rw [hwidth]; exact hget2) hdec, hr1.trans hr2 rfl⟩

theorem readLengths3_of_fieldsAt {S : Stream} (hS : (readable mem r).Extends S) (hc : r.Coherent mem) {lens : List Nat}
    (hle : ∀ l ∈ lens, l ≤ 7) (h : FieldsAt S r.position (lens.map fun l => (l, 3))) :
    ∃ r', readLengths3 mem lens.length r = .ok (lens, r') ∧ Consumed mem (3 * lens.length) r r' := by
  induction lens generalizing r with
  | nil => exact ⟨r, rfl, .refl hc⟩
  | cons l rest ih =>
    have hl := hle l List.mem_cons_self
    obtain ⟨r1, hget, hr1⟩ := getBits_of_fieldsAt hS hc (by decide) (show l < 2 ^ 3 by omega) h
    obtain ⟨_, hrest⟩ := h
    obtain ⟨r2, hread, hr2⟩ := ih (r := r1) ((readable_of_consumed hr1).symm ▸ hS) hr1.coherent
      (fun x hx => hle x (List.mem_cons_of_mem _ hx)) (hr1.position.symm ▸ hrest)
    refine ⟨r2, ?_, hr1.trans hr2 (by rw [List.length_cons]; omega)⟩
    rw [List.length_cons, readLengths3, hget]
    simp only
    rw [hread]

end Reads

/-! The invariant. -/

/-- A decoder of an undisturbed DECOMPRESS that has come to a place of the payload `S`, with the bytes of the source `e` up to that
place in its destination. -/
structure Decoding (u : State) (e : Source) (S : Stream) (a : Place) (v : State) : Prop where
  made : v.made = 0
  clean : v.tainted = false
  lat : v.lat = u.lat
  regs : v.regs = u.regs
  m : v.dec.m.toNat = e.n
  out : v.dec.out.toNat = a.out
  pos : v.rd.position = a.pos
  cache : v.cache = a.cache
  ready : v.readerReady
  stream : (readable v.mem v.rd).Extends S
  bytes : ∀ j, j < a.out → v.mem.read (u.lat.dst + BitVec.ofNat 32 j) = e.src j
  lensLit : v.dec.lensLit.length = 320
  lensDist : v.dec.lensDist.length = 64

/-- The place after `k` more bits. -/
def Place.skip (a : Place) (k : Nat) : Place := { a with pos := a.pos + k }

theorem readable_of_samePayload {m m' : Memory} {r : Reader} (h : SamePayload m m' r) : (readable m' r).Extends (readable m r) := by
  refine ⟨le_rfl, fun b hb => ?_⟩
  simp only [readable, Reader.bits] at hb ⊢
  rw [streamBit, streamBit, h _ (by omega)]

theorem add_ofNat_toNat {w : Word} {o k n : Nat} (hw : w.toNat = o) (hle : o + k ≤ n) (hn : n < 2 ^ 32) :
    (w + BitVec.ofNat 32 k).toNat = o + k := by
  rw [BitVec.toNat_add, BitVec.toNat_ofNat, hw]
  omega

section Moves

variable {u v : State} {e : Source} {S : Stream} {a : Place} (h : Decoding u e S a v)
include h

theorem Decoding.coherent : v.rd.Coherent v.mem := by
  obtain ⟨_, _, _, hc⟩ := h.ready
  exact hc

theorem Decoding.fields {l : List (Nat × Nat)} (hl : FieldsAt S a.pos l) : FieldsAt S v.rd.position l := h.pos.symm ▸ hl

/-- A read moves the place. -/
theorem Decoding.skip {k : Nat} {r : Reader} (hr : Consumed v.mem k v.rd r) : Decoding u e S (a.skip k) { v with rd := r } := by
  obtain ⟨hn, hbase, hlen, _⟩ := h.ready
  refine { h with pos := ?_, ready := ⟨hn, hr.base.trans hbase, hr.len.trans hlen, hr.coherent⟩, stream := ?_ }
  · rw [hr.position, h.pos]
    rfl
  · exact (readable_of_consumed hr).symm ▸ h.stream

theorem Decoding.outputRoom (hbad : u.lat.rangesBad = false) (hcap : e.n ≤ u.lat.cap.toNat) (hmore : a.out < e.n) : v.outputRoom := by
  rw [State.outputRoom, h.lat, h.m, h.out]
  exact ⟨hbad, hcap, hmore⟩

/-- A write of the next bytes of the source moves the place. -/
theorem Decoding.produce {k : Nat} {mem : Memory} (hbad : u.lat.rangesBad = false) (hcap : e.n ≤ u.lat.cap.toNat)
    (hle : a.out + k ≤ e.n) (hm : SameExcept v.mem mem (v.lat.dst + v.dec.out) k)
    (hnew : ∀ j, j < k → mem.read (v.lat.dst + BitVec.ofNat 32 (a.out + j)) = e.src (a.out + j)) :
    Decoding u e S { a with out := a.out + k }
      { v with mem := mem, dec := { v.dec with out := v.dec.out + BitVec.ofNat 32 k } } := by
  have hdst := dst_unwrapped hbad
  have hlt := u.lat.cap.isLt
  have hout := h.out
  have hbad' : v.lat.rangesBad = false := h.lat ▸ hbad
  have hsame : SameOutside v.mem mem v.lat.dst v.lat.cap :=
    sameOutside_within (off := v.dec.out) hm (dst_unwrapped hbad') rfl (by rw [h.lat]; omega)
  have hpayload : SamePayload v.mem mem v.rd := fun _ hj =>
    hsame _ (not_inRange_dst_of_src hbad' (payload_inRange_src h.ready hbad' hj))
  refine { h with
    out := add_ofNat_toNat hout hle (by omega)
    ready := readerReady_of_samePayload h.ready rfl rfl hpayload
    stream := (readable_of_samePayload hpayload).trans h.stream
    bytes := fun j hj => ?_ }
  simp only at hj
  rw [← h.lat]
  by_cases hold : j < a.out
  · rw [hm _ fun i hi => ?_, h.lat]
    · exact h.bytes j hold
    · rw [add_add_ofNat]
      exact dst_byte_ne (by omega) (by omega) (by omega)
  · obtain ⟨i, rfl⟩ := Nat.exists_eq_add_of_le (not_lt.mp hold)
    exact hnew i (by omega)

/-! Tokens. -/

/-- The next token of the stream, and the decoder past it. -/
theorem Decoding.token {f : Format} {lens : List Nat} {n lmax sym x k : Nat} {tree : List Slot} {p : Nat → Bool}
    {rest : List (Nat × Nat)} (halphabet : (n, lmax) ∈ [(320, 14), (64, 14), (20, 7)]) (hcode : CompleteCode lens n lmax)
    (htree : buildTree lens n lmax = some tree) (hf : f ≠ .cmdw) (hsize : alphabetSize f = n) (hbits : n ≤ 2 ^ f.symBits) (hsym : sym < n)
    (hused : 0 < lens.getD sym 0) (hwidth : (if p sym then extraBits f sym else 0) = extraBits f sym) (hk : extraBits f sym = k)
    (hx : x < 2 ^ k) (hfields : FieldsAt S a.pos (codeField lens lmax sym :: (x, k) :: rest)) :
    ∃ i r, readToken v.mem f tree p v.rd = .ok (i, r) ∧ encode i = Token.mk f sym x ∧
      Decoding u e S (a.skip (lens.getD sym 0 + k)) { v with rd := r } := by
  subst hk
  obtain ⟨i, hdec⟩ := exists_decodeSym (by rw [hsize]; exact hsym) hx
  have hwide : extraBits f sym ≤ 32 := (Nat.le_add_left _ _).trans (symBits_add_extraBits_le f sym)
  obtain ⟨r, hread, hr⟩ := readToken_of_fieldsAt h.stream h.coherent halphabet hcode htree hsym hused hwidth hwide hx hdec
    (h.fields hfields)
  exact ⟨i, r, hread, (encode_of_decodeSym hf (hsym.trans_le hbits) hdec).2, h.skip hr⟩

end Moves

end Sys2Proof.Proofs

/-! PROOFS. The decoder reads back each block that the compressor wrote (47_block_decoder.md R702 to R710). -/

namespace Sys2Proof.Proofs

open Sys2Proof Sys2Proof.Machine Sys2Proof.Laws

/-! Stored blocks (R703). -/

theorem byteFields_succ (e : Source) (o k : Nat) : byteFields e o (k + 1) = ((e.src o).toNat, 8) :: byteFields e (o + 1) k := by
  rw [byteFields, byteFields, List.range_succ_eq_map, List.map_cons, List.map_map]
  refine congrArg₂ List.cons rfl (List.map_congr_left fun j _ => ?_)
  simp only [Function.comp, Nat.succ_eq_add_one, Nat.add_assoc, Nat.add_comm 1 j]

theorem read_of_byteFields {mem : Memory} {r : Reader} {S : Stream} (hS : (readable mem r).Extends S) {e : Source} {o k q j : Nat}
    (halign : q % 8 = 0) (h : FieldsAt S q (byteFields e o k)) (hj : j < k) :
    mem.read (r.base + BitVec.ofNat 32 (q / 8 + j)) = e.src (o + j) := by
  induction k generalizing o q j with
  | zero => exact absurd hj (Nat.not_lt_zero j)
  | succ k ih =>
    rw [byteFields_succ] at h
    cases j with
    | zero =>
      have hbyte := ofNat_streamNat_byte mem r.base halign
      rw [streamNat_of_fieldsAt hS (e.src o).isLt h, BitVec.ofNat_toNat, BitVec.setWidth_eq] at hbyte
      exact hbyte.symm
    | succ j =>
      obtain ⟨_, hrest⟩ := h
      have hbyte := ih (q := q + 8) (by omega) hrest (Nat.lt_of_succ_lt_succ hj)
      rw [show (q + 8) / 8 + j = q / 8 + (j + 1) by omega, show o + 1 + j = o + (j + 1) by omega] at hbyte
      exact hbyte

section Block

variable {u v : State} {e : Source} {S : Stream} {a b : Place} (h : Decoding u e S a v) (hbad : u.lat.rangesBad = false)
  (hcap : e.n ≤ u.lat.cap.toNat)
include h hbad hcap

theorem Decoding.storedBlock (hp : v.phase = .block) {k : Nat} (hb : StoredBlockAt e S a b k) (hle : b.out ≤ e.n) :
    ∃ w, engineStep v = .next w.blockLoop ∧ Decoding u e S b w := by
  obtain ⟨bpos, bout, bcache⟩ := b
  obtain ⟨hk0, hk, hfull, hcount, hbytes, hpos, hout, hcache⟩ := hb
  subst hpos hout hcache
  simp only at hfull hle
  obtain ⟨r1, hget, hr1⟩ := getBits_of_fieldsAt h.stream h.coherent (by decide) (by decide) (h.fields hcount)
  have h1 := h.skip hr1
  have hpos1 : r1.position = a.pos + 1 := h1.pos
  have hextra : streamNat v.mem r1.base r1.position 8 = k - 8192 := by
    rw [hpos1]
    exact streamNat_of_fieldsAt h1.stream (by omega) hcount.2
  have hstored : storedCount (streamNat v.mem r1.base r1.position 8) v.dec.m.toNat v.dec.out.toNat = k := by
    have hsyms : Config.blockSyms = 8192 := rfl
    rw [hextra, h.m, h.out, storedCount, hsyms]
    omega
  have hstart : alignUp (r1.position + 8) = alignUp (a.pos + 9) := by rw [hpos1]
  have hend := (hbytes.end_le).trans h1.stream.size_le
  rw [fieldBits_byteFields] at hend
  obtain ⟨m', r2, hwork, hcopied, hframe, hpos2, hc2, hbase2, hlen2⟩ := storedBlockWork_copies (s := { v with rd := r1 }) h1.ready
    (h1.outputRoom hbad hcap (show a.out < e.n by omega)) hstored (by simp only [hstart]; exact hend)
  refine ⟨_, (engineStep_of_token (fetch_of_block hp) (readBlockType_of hget rfl)).trans
    ((exec_storedBlock (s := { v with rd := r1 }) hp).trans hwork), ?_⟩
  simp only [hstart] at hpos2 hcopied
  have hle1 := le_alignUp (a.pos + 9)
  have hread : Consumed v.mem (alignUp (a.pos + 9) + 8 * k - (a.pos + 1)) r1 r2 :=
    ⟨by rw [hpos2, hpos1]; omega, hc2, hbase2, hlen2⟩
  have hdone := (h1.skip hread).produce hbad hcap (k := k) hle hframe fun j hj => ?_
  · have hplace : a.pos + 1 + (alignUp (a.pos + 9) + 8 * k - (a.pos + 1)) = alignUp (a.pos + 9) + 8 * k := by omega
    simp only [Place.skip, hplace] at hdone
    exact hdone
  · have hbyte := read_of_byteFields h1.stream (alignUp_mod _) hbytes hj
    rw [← hcopied j hj, add_add_ofNat, h.out] at hbyte
    exact hbyte

end Block

/-! Code-length sequences (R706). -/

theorem repeatLens_length (r i : Nat) (lens : List (BitVec 4)) : (repeatLens r i lens).length = lens.length := by
  induction r generalizing i lens with
  | zero => rfl
  | succ r ih => rw [repeatLens, ih, List.length_set]

/-- A token that is accepted writes at least one length, and a repeat has one before it. -/
theorem applyCodeLength_some {t x count i k : Nat} {lens lens' : List (BitVec 4)} (ht : t < 20)
    (h : applyCodeLength t x count i lens = some (lens', k)) : lens'.length = lens.length ∧ i < k ∧ (t < 15 ∨ 0 < i) := by
  unfold applyCodeLength at h
  split at h
  next hlit =>
    cases h
    exact ⟨List.length_set, Nat.lt_succ_self i, .inl (by omega)⟩
  next hrep =>
    have hbase := runBase_pos (t := t) (by omega) ht
    split at h
    · cases h
    · split at h
      · cases h
      · cases h
        refine ⟨repeatLens_length _ _ _, ?_, .inr (by omega)⟩
        rw [repeatCount]
        omega

theorem applyItems_index {count : Nat} {items : List Item} {a b : List (BitVec 4) × Nat} (hitems : ∀ i ∈ items, ItemFits i)
    (h : applyItems count items a = some b) : a.2 + items.length ≤ b.2 := by
  induction items generalizing a with
  | nil =>
    cases h
    exact le_rfl
  | cons i rest ih =>
    rw [applyItems] at h
    split at h
    · cases h
    next c hc =>
      obtain ⟨ht, _⟩ := hitems i List.mem_cons_self
      obtain ⟨_, hlt, _⟩ := applyCodeLength_some ht hc
      have hle := ih (fun j hj => hitems j (List.mem_cons_of_mem _ hj)) h
      rw [List.length_cons]
      omega

theorem setLens_lensFor (d : Decoder) (q : RleSeq) (l : List (BitVec 4)) : (d.setLens q l).lensFor q = l := by
  cases q <;> rfl

theorem setLens_setLens (d : Decoder) (q : RleSeq) (l l' : List (BitVec 4)) : (d.setLens q l).setLens q l' = d.setLens q l' := by
  cases q <;> rfl

theorem setLens_clTree (d : Decoder) (q : RleSeq) (l : List (BitVec 4)) : (d.setLens q l).clTree = d.clTree := by
  cases q <;> rfl

theorem Decoding.setLens {u v : State} {e : Source} {S : Stream} {a : Place} (h : Decoding u e S a v) {q : RleSeq}
    {l : List (BitVec 4)} (hl : l.length = (v.dec.lensFor q).length) : Decoding u e S a { v with dec := v.dec.setLens q l } := by
  cases q with
  | literal => exact { h with lensLit := hl.trans h.lensLit }
  | distance => exact { h with lensDist := hl.trans h.lensDist }

theorem Decoding.phase {u v : State} {e : Source} {S : Stream} {a : Place} (h : Decoding u e S a v) (p : Phase) :
    Decoding u e S a { v with phase := p } := { h with }

/-- The items of a sequence are read one after another; the last one ends it. -/
theorem Decoding.items {u v : State} {e : Source} {S : Stream} {a : Place} (h : Decoding u e S a v) {q : RleSeq} {count i : Nat}
    (hp : v.phase = .rle q count i) {cl : List Nat} (hcl : CompleteCode cl 20 7) (htree : buildTree cl 20 7 = some v.dec.clTree)
    {items : List Item} (hfit : ∀ x ∈ items, ItemFits x ∧ 0 < cl.getD x.t 0) (hsome : items ≠ [])
    {lens : List (BitVec 4)} (happly : applyItems count items (v.dec.lensFor q, i) = some (lens, count))
    (hfields : FieldsAt S a.pos (items.flatMap (itemBits cl))) :
    ∃ w, Decoding u e S (a.skip (fieldBits (items.flatMap (itemBits cl)))) w ∧ w.dec = v.dec.setLens q lens ∧
      ∀ t, w.nextCodeLength q count count = .next t → ∀ z, Reaches t z → Reaches v z := by
  induction items generalizing v a i with
  | nil => exact absurd rfl hsome
  | cons x rest ih =>
    obtain ⟨⟨ht, he, hx⟩, hused⟩ := hfit x List.mem_cons_self
    have hrest : ∀ y ∈ rest, ItemFits y ∧ 0 < cl.getD y.t 0 := fun y hy => hfit y (List.mem_cons_of_mem _ hy)
    rw [applyItems] at happly
    split at happly
    · cases happly
    next c hc =>
      obtain ⟨lens', k⟩ := c
      obtain ⟨hlen, hlt, hprev⟩ := applyCodeLength_some ht hc
      rw [List.flatMap_cons] at hfields ⊢
      obtain ⟨ins, r, hread, henc, hr⟩ := h.token (f := .clsym) (p := fun t => decide (t < 15 ∨ 0 < i)) (by decide) hcl htree
        (by decide) rfl (by decide) ht hused (if_pos (decide_eq_true hprev)) he.symm hx hfields
      have hexec : engineStep v = State.nextCodeLength { v with rd := r, dec := v.dec.setLens q lens' } q count k := by
        rw [engineStep_of_token (fetch_of_rle hp) hread, exec_of_clsym (by rw [henc]), henc]
        exact codeLength_accepted (s := { v with rd := r }) hp hc
      have hw := hr.setLens (q := q) (l := lens') hlen
      have hbits : fieldBits (itemBits cl x ++ rest.flatMap (itemBits cl)) =
          (cl.getD x.t 0 + x.e) + fieldBits (rest.flatMap (itemBits cl)) := by
        rw [fieldBits_append]
        rfl
      have hafter := (fieldsAt_append.mp hfields).2
      rw [hbits]
      cases rest with
      | nil =>
        cases happly
        exact ⟨_, hw, rfl, fun t ht z hz => .step h.made (hexec.trans ht) hz⟩
      | cons y more =>
        have hk : k < count := by
          have hindex := applyItems_index (fun y hy => (hrest y hy).1) happly
          simp only [List.length_cons] at hindex
          omega
        rw [nextCodeLength_inside hk] at hexec
        obtain ⟨w, hdec, hlens, hend⟩ := ih (hw.phase (.rle q count k)) rfl (by rw [setLens_clTree]; exact htree) hrest
          (List.cons_ne_nil _ _) (by rw [setLens_lensFor]; exact happly) hafter
        refine ⟨w, ?_, hlens.trans (setLens_setLens _ _ _ _), fun t ht z hz => .step h.made hexec (hend t ht z hz)⟩
        have hplace : (a.skip (cl.getD x.t 0 + x.e)).skip (fieldBits ((y :: more).flatMap (itemBits cl))) =
            a.skip (cl.getD x.t 0 + x.e + fieldBits ((y :: more).flatMap (itemBits cl))) := by
          simp only [Place.skip, Nat.add_assoc]
        rw [← hplace]
        exact hdec

end Sys2Proof.Proofs

/-! PROOFS. The decoder rebuilds the codes of a compressed block (47_block_decoder.md R704 to R709) from the tables that the
compressor sent (44_block_encoder.md R561). -/

namespace Sys2Proof.Proofs

open Sys2Proof Sys2Proof.Machine Sys2Proof.Laws

/-! The lengths of a sequence with the rest cleared (R707, R708). -/

theorem getD_of_usedCount_le {lens : List Nat} {j : Nat} (h : usedCount lens ≤ j) : lens.getD j 0 = 0 := by
  induction lens generalizing j with
  | nil => rfl
  | cons l rest ih =>
    rw [usedCount] at h
    cases j with
    | zero =>
      rw [List.getD_cons_zero]
      split_ifs at h <;> omega
    | succ j =>
      rw [List.getD_cons_succ]
      refine ih ?_
      split_ifs at h <;> omega

theorem clearFrom_length {count n : Nat} {out : List (BitVec 4)} (hout : out.length = n) (hcount : count ≤ n) :
    (clearFrom count n out).length = n := by
  rw [clearFrom, List.length_append, List.length_take, List.length_replicate]
  omega

theorem lensOf_clearFrom {count n : Nat} {out : List (BitVec 4)} {lens : List Nat} (hout : out.length = n) (hlens : lens.length = n)
    (hcount : count ≤ n) (hsame : ∀ j, j < count → (out.getD j 0).toNat = lens.getD j 0)
    (hzero : ∀ j, count ≤ j → lens.getD j 0 = 0) : lensOf (clearFrom count n out) = lens := by
  have hlen : (lensOf (clearFrom count n out)).length = lens.length := by
    rw [lensOf, List.length_map, clearFrom_length hout hcount, hlens]
  refine List.ext_getElem hlen fun j h1 h2 => ?_
  simp only [lensOf, clearFrom, List.getElem_map, List.getElem_append, List.length_take]
  rw [← List.getD_eq_getElem _ 0 h2]
  split
  next hj =>
    rw [List.getElem_take, ← hsame j (by omega), List.getD_eq_getElem]
  next hj =>
    rw [List.getElem_replicate, hzero j (by omega)]
    rfl

/-- The sequence of a block's code lengths, sent as items, read into a length array and cleared behind it. -/
theorem applyItems_seq {lens : List Nat} {n count : Nat} (h : CompleteCode lens n 14) (h1 : 1 ≤ count) (hn : count ≤ n)
    (hused : usedCount lens ≤ count) {array : List (BitVec 4)} (harray : array.length = n) :
    rle (lens.take count) ≠ [] ∧ ∃ out, applyItems count (rle (lens.take count)) (array, 0) = some (out, count) ∧
      (clearFrom count n out).length = n ∧ lensOf (clearFrom count n out) = lens := by
  obtain ⟨hlen, hle, _⟩ := h
  have htake : (lens.take count).length = count := by rw [List.length_take]; omega
  obtain ⟨_, out, happly, houtlen, hsame, _⟩ := unRleInvertsRle (lens.take count) array
    (fun v hv => hle v (List.mem_of_mem_take hv)) (by omega)
  rw [htake] at happly hsame
  refine ⟨fun hnil => ?_, out, happly, clearFrom_length (houtlen.trans harray) hn, ?_⟩
  · rw [hnil] at happly
    cases happly
    omega
  · refine lensOf_clearFrom (houtlen.trans harray) hlen hn (fun j hj => ?_) fun j hj => getD_of_usedCount_le (hused.trans hj)
    rw [hsame j hj, List.getD_eq_getElem?_getD, List.getElem?_take_of_lt hj, ← List.getD_eq_getElem?_getD]

/-! The table part of a compressed block. -/

section Table

variable {u v : State} {e : Source} {S : Stream} {a : Place} (h : Decoding u e S a v) {ll dl cl : List Nat} {rest : List (Nat × Nat)}
include h

theorem Decoding.getBits {x k : Nat} (hk : k ≤ 32) (hx : x < 2 ^ k) (hfields : FieldsAt S a.pos ((x, k) :: rest)) :
    ∃ r, getBits v.mem k v.rd = .ok (x, r) ∧ Decoding u e S (a.skip k) { v with rd := r } := by
  obtain ⟨r, hget, hr⟩ := getBits_of_fieldsAt h.stream h.coherent hk hx (h.fields hfields)
  exact ⟨r, hget, h.skip hr⟩

/-- The code-length code and the literal count (R705, R707). -/
theorem Decoding.codeLengthCode (hp : v.phase = .block) (hcodes : Codes ll dl cl) (htype : FieldsAt S a.pos [(1, 1)])
    (hfields : FieldsAt S (a.pos + 1) (cl.map (fun l => (l, 3)) ++ [(litCountOf ll - 257, 6)])) :
    ∃ w, engineStep v = .next w ∧ w.phase = .rle .literal (litCountOf ll) 0 ∧ buildTree cl 20 7 = some w.dec.clTree ∧
      Decoding u e S (a.skip (1 + 60 + 6)) w := by
  obtain ⟨hcllen, hclle, hclkraft⟩ := id hcodes.lengths
  have hcount := litCountOf_bounds hcodes.lit
  obtain ⟨tree, htree⟩ := exists_buildTree hclle hclkraft (n := 20)
  obtain ⟨r1, hget, h1⟩ := h.getBits (by decide) (by decide) htype
  obtain ⟨hlens, hsix⟩ := fieldsAt_append.mp hfields
  have hbits : fieldBits (cl.map fun l => (l, 3)) = 60 := by
    rw [fieldBits_map (fun l => l) 3, hcllen]
  obtain ⟨r2, hread, hr2⟩ := readLengths3_of_fieldsAt h1.stream h1.coherent hclle (h1.fields hlens)
  rw [hcllen] at hread hr2
  have h2 := h1.skip hr2
  rw [hbits] at hsix
  obtain ⟨r3, hget3, h3⟩ := h2.getBits (by decide) (show litCountOf ll - 257 < 2 ^ 6 by omega) hsix
  have hwork := compressedBlockWork_ok (s := { v with rd := r1 }) hread htree hget3
  have hfield : litCountField (litCountOf ll - 257) = litCountOf ll := Nat.sub_add_cancel hcount.1
  rw [hfield] at hwork
  refine ⟨_, (engineStep_of_token (fetch_of_block hp) (readBlockType_of hget rfl)).trans
    ((exec_compressedBlock (s := { v with rd := r1 }) hp).trans hwork), rfl, htree, ?_⟩
  exact { h3 with }

/-- The literal/length code, and the distance count (R706 to R708). -/
theorem Decoding.literalCode (hp : v.phase = .rle .literal (litCountOf ll) 0) (hcodes : Codes ll dl cl)
    (htree : buildTree cl 20 7 = some v.dec.clTree)
    (hfields : FieldsAt S a.pos ((rle (litSeq ll)).flatMap (itemBits cl) ++ [(distCountOf dl - 1, 6)])) :
    ∃ w, w.phase = .rle .distance (distCountOf dl) 0 ∧ buildTree cl 20 7 = some w.dec.clTree ∧
      buildTree ll 320 14 = some w.dec.litTree ∧
      Decoding u e S (a.skip (fieldBits ((rle (litSeq ll)).flatMap (itemBits cl)) + 6)) w ∧
      ∀ z, Reaches w z → Reaches v z := by
  have hcount := litCountOf_bounds hcodes.lit
  have hdcount := distCountOf_bounds hcodes.dist
  obtain ⟨_, hllle, hllkraft⟩ := id hcodes.lit
  obtain ⟨tree, hlit⟩ := exists_buildTree hllle hllkraft (n := 320)
  obtain ⟨hsome, out, happly, hlen, hclear⟩ := applyItems_seq hcodes.lit (by omega) hcount.2 (le_max_right _ _) h.lensLit
  obtain ⟨hitems, hsix⟩ := fieldsAt_append.mp hfields
  obtain ⟨w, hw, hdec, hend⟩ := h.items hp hcodes.lengths htree (items := rle (litSeq ll))
    (fun x hx => ⟨hcodes.items_fit x (List.mem_append_left _ hx), hcodes.items x (List.mem_append_left _ hx)⟩) hsome happly hitems
  obtain ⟨r, hget, hr⟩ := hw.getBits (by decide) (show distCountOf dl - 1 < 2 ^ 6 by omega) hsix
  have hlens : w.dec.lensLit = out := by rw [hdec]; rfl
  have hstep := endLiteralLens_ok (s := w) (count := litCountOf ll) (by rw [hlens, hclear]; exact hlit) hget
  have hfield : distCountField (distCountOf dl - 1) = distCountOf dl := Nat.sub_add_cancel hdcount.1
  rw [hfield, hlens] at hstep
  refine ⟨_, rfl, ?_, hlit, ?_, fun z hz => hend _ ((nextCodeLength_literal le_rfl).trans hstep) z hz⟩
  · simp only [hdec, setLens_clTree]
    exact htree
  · exact { hr with lensLit := hlen }

/-- The distance code, after which the symbols begin (R706 to R710). -/
theorem Decoding.distanceCode (hp : v.phase = .rle .distance (distCountOf dl) 0) (hcodes : Codes ll dl cl)
    (htree : buildTree cl 20 7 = some v.dec.clTree) (hlit : buildTree ll 320 14 = some v.dec.litTree)
    (hfields : FieldsAt S a.pos ((rle (distSeq dl)).flatMap (itemBits cl))) :
    ∃ w, buildTree ll 320 14 = some w.dec.litTree ∧ buildTree dl 64 14 = some w.dec.distTree ∧ w.dec.bsym = 0 ∧
      Decoding u e S (a.skip (fieldBits ((rle (distSeq dl)).flatMap (itemBits cl)))) w ∧
      ∀ z, Reaches w.symbolLoop z → Reaches v z := by
  have hcount := distCountOf_bounds hcodes.dist
  obtain ⟨_, hdlle, hdlkraft⟩ := id hcodes.dist
  obtain ⟨tree, hdist⟩ := exists_buildTree hdlle hdlkraft (n := 64)
  obtain ⟨hsome, out, happly, hlen, hclear⟩ := applyItems_seq hcodes.dist hcount.1 hcount.2 (le_max_right _ _) h.lensDist
  obtain ⟨w, hw, hdec, hend⟩ := h.items hp hcodes.lengths htree (items := rle (distSeq dl))
    (fun x hx => ⟨hcodes.items_fit x (List.mem_append_right _ hx), hcodes.items x (List.mem_append_right _ hx)⟩) hsome happly hfields
  have hlens : w.dec.lensDist = out := by rw [hdec]; rfl
  have hstep := endDistanceLens_ok (s := w) (count := distCountOf dl) (by rw [hlens, hclear]; exact hdist)
  rw [hlens] at hstep
  refine ⟨_, ?_, hdist, rfl, ?_, fun z hz => hend _ ((nextCodeLength_distance le_rfl).trans hstep) z hz⟩
  · simp only [hdec]
    exact hlit
  · exact { hw with lensDist := hlen }

end Table

end Sys2Proof.Proofs

/-! PROOFS. The decoder replays the symbols of a compressed block (48_symbol_decoder_and_copy.md R754 to R759) and the blocks of a
payload (47_block_decoder.md R702, R711). -/

namespace Sys2Proof.Proofs

open Sys2Proof Sys2Proof.Machine Sys2Proof.Laws

/-! One symbol. -/

/-- A byte of a match is one of the `d` bytes before it. -/
theorem CopyStep.periodic {e : Source} {len d o o' : Nat} (h : CopyStep e len d o o') {j : Nat} (hj : j < len) :
    e.src (o - d + j % d) = e.src (o + j) := by
  have hd := h.dist_pos
  have hback := h.back
  induction j using Nat.strongRecOn with
  | ind j ih =>
    rcases Nat.lt_or_ge j d with hlt | hge
    · rw [Nat.mod_eq_of_lt hlt]
      exact h.agree j hj
    · have hprev := ih (j - d) (by omega) (by omega)
      rw [Nat.mod_eq_sub_mod hge, hprev, ← h.agree j hj]
      exact congrArg e.src (by omega)

/-- The decoder has the trees of the two data codes. -/
structure DataCodes (ll dl : List Nat) (d : Decoder) : Prop where
  lit : CompleteCode ll 320 14
  dist : CompleteCode dl 64 14
  litTree : buildTree ll 320 14 = some d.litTree
  distTree : buildTree dl 64 14 = some d.distTree

/-- What a symbol of the block leaves: the decoder past it, with one more symbol counted. -/
structure PastSymbol (u : State) (e : Source) (S : Stream) (b : Place) (ll dl : List Nat) (v w : State) : Prop where
  decoding : Decoding u e S b w
  codes : DataCodes ll dl w.dec
  counted : w.dec.bsym = v.dec.bsym + 1

section Symbols

variable {u v : State} {e : Source} {S : Stream} {a : Place} (h : Decoding u e S a v) (hbad : u.lat.rangesBad = false)
  (hcap : e.n ≤ u.lat.cap.toNat) {ll dl : List Nat} (hcodes : DataCodes ll dl v.dec)
include h hbad hcap hcodes

theorem Decoding.literal (hp : v.phase = .symbol) {b : Byte} (hcoded : SymCoded ll dl (.literal b)) {n : Nat × Cache}
    (hstep : SymStep e (.literal b) (a.out, a.cache) n) (hfields : FieldsAt S a.pos (symBits ll dl (.literal b))) :
    ∃ w, engineStep v = .next w.symbolLoop ∧
      PastSymbol u e S ⟨a.pos + fieldBits (symBits ll dl (.literal b)), n.1, n.2⟩ ll dl v w := by
  obtain ⟨hlt, rfl, rfl⟩ := hstep
  simp only at hlt hfields ⊢
  have hb := (e.src a.out).isLt
  have hnone : FieldsAt S a.pos [codeField ll 14 (e.src a.out).toNat, (0, 0)] := by
    obtain ⟨hbits, hend⟩ := hfields
    exact ⟨hbits, fun i hi => absurd hi (Nat.not_lt_zero i), hend⟩
  obtain ⟨i, r, hread, henc, hr⟩ := h.token (f := .llsym) (p := fun _ => true) (by decide) hcodes.lit hcodes.litTree (by decide) rfl
    (by decide) (show (e.src a.out).toNat < 320 by omega) hcoded.lit rfl (if_pos hb) (by decide) hnone
  have hi : i = .lit (e.src a.out) := by
    rcases exec_of_llsym (by rw [henc]) v with ⟨b, rfl⟩ | ⟨hlen, _⟩
    · have hsym : b.toNat = (e.src a.out).toNat := congrArg Token.sym henc
      rw [BitVec.eq_of_toNat_eq hsym]
    · rw [henc] at hlen
      simp only at hlen
      omega
  rw [hi] at hread
  have hdone := hr.produce hbad hcap (k := 1) hlt (write_sameExcept v.mem (v.lat.dst + v.dec.out) (e.src a.out)) fun j hj => by
    obtain rfl : j = 0 := by omega
    have haddr : v.lat.dst + BitVec.ofNat 32 (a.out + 0) = v.lat.dst + v.dec.out := by
      rw [Nat.add_zero, ← h.out, BitVec.ofNat_toNat, BitVec.setWidth_eq]
    simp only [Place.skip]
    rw [haddr, read_write_same]
    rfl
  refine ⟨_, (engineStep_of_token (fetch_of_symbol hp) hread).trans (exec_lit (s := { v with rd := r }) hp _), ?_, ?_, rfl⟩
  · exact { hdone with }
  · exact ⟨hcodes.lit, hcodes.dist, hcodes.litTree, hcodes.distTree⟩

theorem Decoding.copy (hp : v.phase = .symbol) {lcode : BitVec 6} {lextra : BitVec 14} {dcode : BitVec 6} {dextra : BitVec 17}
    (hcoded : SymCoded ll dl (.copy lcode lextra dcode dextra)) {n : Nat × Cache}
    (hstep : SymStep e (.copy lcode lextra dcode dextra) (a.out, a.cache) n)
    (hfields : FieldsAt S a.pos (symBits ll dl (.copy lcode lextra dcode dextra))) :
    ∃ w1 w, engineStep v = .next w1 ∧ w1.made = 0 ∧ engineStep w1 = .next w.symbolLoop ∧
      PastSymbol u e S ⟨a.pos + fieldBits (symBits ll dl (.copy lcode lextra dcode dextra)), n.1, n.2⟩ ll dl v w := by
  obtain ⟨d, hunmap, hcopy⟩ := hstep
  obtain ⟨o', c'⟩ := n
  obtain ⟨hl, hd⟩ := hcoded.fits
  simp only at hunmap hcopy ⊢
  have hlcode := lcode.isLt
  have hend := hcopy.end_le
  obtain rfl := hcopy.end_eq
  obtain ⟨i, r, hread, henc, hr⟩ := h.token (f := .llsym) (p := fun _ => true) (sym := 256 + lcode.toNat) (by decide) hcodes.lit
    hcodes.litTree (by decide) rfl (by decide) (by omega) hcoded.lit rfl
    ((if_neg (by omega)).trans (congrArg lenExtra (Nat.add_sub_cancel_left 256 _))) hl hfields
  have hexec : engineStep v = .next { v with
      rd := r, dec := { v.dec with bsym := v.dec.bsym + 1 }, phase := .dist (lenBase lcode.toNat + lextra.toNat) } := by
    rw [engineStep_of_token (fetch_of_symbol hp) hread]
    rcases exec_of_llsym (by rw [henc]) { v with rd := r } with ⟨b, rfl⟩ | ⟨_, hlen⟩
    · have hsym : b.toNat = 256 + lcode.toNat := congrArg Token.sym henc
      have hb := b.isLt
      omega
    · rw [hlen, henc, Nat.add_sub_cancel_left]
      exact lengthToken_of_symbol (s := { v with rd := r }) hp _ _
  have h1 : Decoding u e S (a.skip (ll.getD (256 + lcode.toNat) 0 + lenExtra lcode.toNat)) { v with
      rd := r, dec := { v.dec with bsym := v.dec.bsym + 1 }, phase := .dist (lenBase lcode.toNat + lextra.toNat) } := { hr with }
  have hdist := (fieldsAt_append (l := [codeField ll 14 (256 + lcode.toNat), (lextra.toNat, lenExtra lcode.toNat)])).mp hfields
  obtain ⟨i2, r2, hread2, henc2, hr2⟩ := h1.token (f := .dsym) (p := fun _ => true) (sym := dcode.toNat) (by decide) hcodes.dist
    hcodes.distTree (by decide) rfl (by decide) dcode.isLt (hcoded.dist _ List.mem_cons_self) rfl rfl hd hdist.2
  have hexec2 := engineStep_of_token (fetch_of_dist (s := { v with
      rd := r, dec := { v.dec with bsym := v.dec.bsym + 1 }, phase := .dist (lenBase lcode.toNat + lextra.toNat) }) rfl) hread2
  rw [exec_of_dsym (by rw [henc2]), henc2] at hexec2
  have hwork := distanceToken_of_dist (s := { v with
      rd := r2, dec := { v.dec with bsym := v.dec.bsym + 1 }, phase := .dist (lenBase lcode.toNat + lextra.toNat) }) rfl
      dcode.toNat dextra.toNat
  rw [distanceWork_copies (h.cache.symm ▸ hunmap) (h.out.symm ▸ hcopy.back) (by simp only [h.m, h.out]; omega)] at hwork
  have hcached : Decoding u e S
      { (a.skip (ll.getD (256 + lcode.toNat) 0 + lenExtra lcode.toNat)).skip (dl.getD dcode.toNat 0 + distExtra dcode.toNat) with
        cache := c' }
      { v with
        rd := r2, dec := { v.dec with bsym := v.dec.bsym + 1 }, phase := .dist (lenBase lcode.toNat + lextra.toNat), cache := c' } :=
    { hr2 with cache := rfl }
  have hdone := hcached.produce hbad hcap (k := lenBase lcode.toNat + lextra.toNat) hend
    (copyForward_sameExcept _ (v.lat.dst + (v.dec.out - BitVec.ofNat 32 d)) _ v.mem) fun j hj => by
      have hperiod := read_copyMatch_periodic (s := v) hcopy.dist_pos (h.out.symm ▸ hcopy.back)
        (show v.dec.out.toNat + (lenBase lcode.toNat + lextra.toNat) ≤ 2 ^ 32 by rw [h.out]; have := u.lat.cap.isLt; omega) hj
      rw [h.out] at hperiod
      have hmod := Nat.mod_lt j hcopy.dist_pos
      have hback := hcopy.back
      refine hperiod.trans ?_
      rw [h.lat, h.bytes _ (by omega), hcopy.periodic hj]
      rfl
  refine ⟨_, _, hexec, h.made, hexec2.trans hwork, ?_, ?_, rfl⟩
  · have hbits : fieldBits (symBits ll dl (.copy lcode lextra dcode dextra)) =
        (ll.getD (256 + lcode.toNat) 0 + lenExtra lcode.toNat) + (dl.getD dcode.toNat 0 + distExtra dcode.toNat) := by
      simp only [symBits, fieldBits, codeField, List.map_cons, List.map_nil, List.sum_cons, List.sum_nil]
      omega
    rw [hbits, ← Nat.add_assoc]
    exact hdone
  · exact ⟨hcodes.lit, hcodes.dist, hcodes.litTree, hcodes.distTree⟩

/-- Any symbol of the block. -/
theorem Decoding.symbol (hp : v.phase = .symbol) {y : Sym} (hcoded : SymCoded ll dl y) {n : Nat × Cache}
    (hstep : SymStep e y (a.out, a.cache) n) (hfields : FieldsAt S a.pos (symBits ll dl y)) :
    ∃ w, PastSymbol u e S ⟨a.pos + fieldBits (symBits ll dl y), n.1, n.2⟩ ll dl v w ∧
      ∀ z, Reaches w.symbolLoop z → Reaches v z := by
  cases y with
  | literal b =>
    obtain ⟨w, hexec, hw⟩ := h.literal hbad hcap hcodes hp hcoded hstep hfields
    exact ⟨w, hw, fun z hz => .step h.made hexec hz⟩
  | copy lcode lextra dcode dextra =>
    obtain ⟨w1, w, hexec, hmade, hexec2, hw⟩ := h.copy hbad hcap hcodes hp hcoded hstep hfields
    exact ⟨w, hw, fun z hz => .step h.made hexec (.step hmade hexec2 hz)⟩

end Symbols

/-! The symbols of a block. -/

theorem symbolLoop_more {s : State} (hb : s.dec.bsym.toNat < 8192) (ho : s.dec.out.toNat < s.dec.m.toNat) :
    s.symbolLoop = { s with phase := .symbol } := if_pos ⟨hb, ho⟩

theorem symbolLoop_end {s : State} (h : s.dec.bsym.toNat = 8192 ∨ s.dec.out.toNat = s.dec.m.toNat) : s.symbolLoop = s.blockLoop :=
  if_neg fun hmore => by
    obtain ⟨hb, ho⟩ := hmore
    have hsyms : Config.blockSyms = 8192 := rfl
    omega

theorem Decoding.symbols {u v : State} {e : Source} {S : Stream} {a : Place} (h : Decoding u e S a v) (hbad : u.lat.rangesBad = false)
    (hcap : e.n ≤ u.lat.cap.toNat) {ll dl : List Nat} (hcodes : DataCodes ll dl v.dec) {syms : List Sym} {n : Nat × Cache}
    (hcoded : ∀ y ∈ syms, SymCoded ll dl y) (hreplays : Replays e syms (a.out, a.cache) n)
    (hfields : FieldsAt S a.pos (syms.flatMap (symBits ll dl))) (hfew : v.dec.bsym.toNat + syms.length ≤ 8192)
    (hfull : v.dec.bsym.toNat + syms.length = 8192 ∨ n.1 = e.n) :
    ∃ w, Decoding u e S ⟨a.pos + fieldBits (syms.flatMap (symBits ll dl)), n.1, n.2⟩ w ∧
      ∀ z, Reaches w.blockLoop z → Reaches v.symbolLoop z := by
  induction syms generalizing v a with
  | nil =>
    cases hreplays
    rw [symbolLoop_end (hfull.imp id fun hout => by rw [h.out, h.m]; exact hout)]
    exact ⟨v, h, fun z hz => hz⟩
  | cons y rest ih =>
    obtain ⟨m, hy, hrest⟩ := hreplays
    obtain ⟨hlt, hle⟩ := hy.advances
    rw [List.length_cons] at hfew hfull
    rw [List.flatMap_cons] at hfields ⊢
    obtain ⟨hfirst, hothers⟩ := fieldsAt_append.mp hfields
    obtain ⟨w1, hw1, hreach⟩ := (h.phase .symbol).symbol hbad hcap hcodes rfl (hcoded y List.mem_cons_self) hy hfirst
    have hcount : w1.dec.bsym.toNat = v.dec.bsym.toNat + 1 := by
      have hone : (1 : BitVec 14).toNat = 1 := rfl
      rw [hw1.counted, BitVec.toNat_add, hone]
      simp only
      omega
    obtain ⟨w, hw, hend⟩ := ih hw1.decoding hw1.codes (fun z hz => hcoded z (List.mem_cons_of_mem _ hz)) hrest hothers
      (by rw [hcount]; omega) (hfull.imp (fun hf => by rw [hcount]; omega) id)
    rw [symbolLoop_more (by omega) (by rw [h.out, h.m]; simp only at hlt; omega)]
    refine ⟨w, ?_, fun z hz => hreach z (hend z hz)⟩
    rw [fieldBits_append, ← Nat.add_assoc]
    exact hw

/-! Blocks. -/

theorem fieldsAt_of_eq {S : Stream} {p q : Nat} {l : List (Nat × Nat)} (h : FieldsAt S p l) (hpq : p = q) : FieldsAt S q l := hpq ▸ h

theorem fieldBits_lengths {ll dl cl : List Nat} (h : Codes ll dl cl) (x : Nat) :
    fieldBits (cl.map (fun l => (l, 3)) ++ [(x, 6)]) = 66 := by
  obtain ⟨hlen, _⟩ := h.lengths
  rw [fieldBits_append, fieldBits_map (fun l => l) 3, hlen]
  rfl

theorem tableBits_parts (ll dl cl : List Nat) :
    tableBits ll dl cl = (cl.map (fun l => (l, 3)) ++ [(litCountOf ll - 257, 6)]) ++
      (((rle (litSeq ll)).flatMap (itemBits cl) ++ [(distCountOf dl - 1, 6)]) ++ (rle (distSeq dl)).flatMap (itemBits cl)) := by
  simp only [tableBits, List.append_assoc]

theorem fieldBits_tableBits {ll dl cl : List Nat} (h : Codes ll dl cl) :
    fieldBits (tableBits ll dl cl) = 66 + (fieldBits ((rle (litSeq ll)).flatMap (itemBits cl)) + 6 +
      fieldBits ((rle (distSeq dl)).flatMap (itemBits cl))) := by
  rw [tableBits_parts, fieldBits_append, fieldBits_lengths h, fieldBits_append, fieldBits_append]
  rfl

theorem fieldsAt_tableBits {S : Stream} {pos : Nat} {ll dl cl : List Nat} (h : Codes ll dl cl)
    (hfields : FieldsAt S pos (tableBits ll dl cl)) :
    FieldsAt S pos (cl.map (fun l => (l, 3)) ++ [(litCountOf ll - 257, 6)]) ∧
    FieldsAt S (pos + 66) ((rle (litSeq ll)).flatMap (itemBits cl) ++ [(distCountOf dl - 1, 6)]) ∧
    FieldsAt S (pos + 66 + (fieldBits ((rle (litSeq ll)).flatMap (itemBits cl)) + 6)) ((rle (distSeq dl)).flatMap (itemBits cl)) := by
  rw [tableBits_parts] at hfields
  obtain ⟨hhead, hrest⟩ := fieldsAt_append.mp hfields
  rw [fieldBits_lengths h] at hrest
  obtain ⟨hlit, hdist⟩ := fieldsAt_append.mp hrest
  rw [fieldBits_append] at hdist
  exact ⟨hhead, hlit, hdist⟩

section Payload

variable {u v : State} {e : Source} {S : Stream} {a b : Place} (h : Decoding u e S a v) (hbad : u.lat.rangesBad = false)
  (hcap : e.n ≤ u.lat.cap.toNat)
include h hbad hcap

theorem Decoding.compressedBlock (hp : v.phase = .block) {ll dl cl : List Nat} {syms : List Sym}
    (hb : CompressedBlockAt e S a b ll dl cl syms) :
    ∃ w, Decoding u e S b w ∧ ∀ z, Reaches w.blockLoop z → Reaches v z := by
  obtain ⟨bpos, bout, bcache⟩ := b
  obtain ⟨hcodes, htype, htable, hsymbols, hcoded, hreplays, hsome, hle, hfull, hpos⟩ := hb
  obtain ⟨hhead, hlit, hdist⟩ := fieldsAt_tableBits hcodes htable
  rw [fieldBits_tableBits hcodes] at hsymbols hpos
  obtain ⟨w1, hstep, hp1, htree1, h1⟩ := h.codeLengthCode hp hcodes htype hhead
  obtain ⟨w2, hp2, htree2, hlit2, h2, hreach2⟩ := h1.literalCode hp1 hcodes htree1 (fieldsAt_of_eq hlit (Nat.add_assoc _ _ _))
  obtain ⟨w3, hlit3, hdist3, hnone, h3, hreach3⟩ := h2.distanceCode hp2 hcodes htree2 hlit2
    (fieldsAt_of_eq hdist (by simp only [Place.skip]))
  have hzero : w3.dec.bsym.toNat = 0 := by rw [hnone]; rfl
  obtain ⟨w, hw, hreach⟩ := h3.symbols hbad hcap ⟨hcodes.lit, hcodes.dist, hlit3, hdist3⟩ hcoded hreplays
    (fieldsAt_of_eq hsymbols (by simp only [Place.skip]; omega)) (by omega) (hfull.imp (fun hf => by omega) id)
  refine ⟨w, ?_, fun z hz => .step h.made hstep (hreach2 z (hreach3 z (hreach z hz)))⟩
  have hplace : bpos = a.pos + (1 + 60 + 6) + (fieldBits ((rle (litSeq ll)).flatMap (itemBits cl)) + 6) +
      fieldBits ((rle (distSeq dl)).flatMap (itemBits cl)) + fieldBits (syms.flatMap (symBits ll dl)) := by
    simp only at hpos
    omega
  rw [hplace]
  exact hw

/-- The decoder goes on to the next block, or the command completes. -/
theorem Decoding.block (hb : BlockAt e S a b) : ∃ w, Decoding u e S b w ∧ ∀ z, Reaches w.blockLoop z → Reaches v.blockLoop z := by
  have hlt := hb.out_lt
  obtain ⟨hle, hb⟩ := hb
  have hloop : v.blockLoop = { v with phase := .block } := if_pos (by rw [h.out, h.m]; omega)
  rw [hloop]
  rcases hb with ⟨k, hb⟩ | ⟨ll, dl, cl, syms, hb⟩
  · obtain ⟨w, hstep, hw⟩ := (h.phase .block).storedBlock hbad hcap rfl hb hle
    exact ⟨w, hw, fun z hz => .step h.made hstep hz⟩
  · exact (h.phase .block).compressedBlock hbad hcap rfl hb

end Payload

/-- The blocks of a payload are decoded one after another, up to the end of the source. -/
theorem Decoding.blocks {u v : State} {e : Source} {S : Stream} {a b : Place} (h : Decoding u e S a v) (hbad : u.lat.rangesBad = false)
    (hcap : e.n ≤ u.lat.cap.toNat) (hb : Blocks e S a b) :
    ∃ w, Decoding u e S b w ∧ ∀ z, Reaches w.blockLoop z → Reaches v.blockLoop z := by
  induction hb using Relation.ReflTransGen.head_induction_on generalizing v with
  | refl => exact ⟨v, h, fun z hz => hz⟩
  | head hfirst _ ih =>
    obtain ⟨w1, hw1, hreach⟩ := h.block hbad hcap hfirst
    obtain ⟨w, hw, hend⟩ := ih hw1
    exact ⟨w, hw, fun z hz => hreach z (hend z hz)⟩

end Sys2Proof.Proofs

/-! PROOFS. DECOMPRESS of what COMPRESS gives (49_host_commands.md R802 to R804): the header leads to the stored bytes or to the
blocks, and both give back the source. -/

namespace Sys2Proof.Proofs

open Sys2Proof Sys2Proof.Machine Sys2Proof.Laws

/-! Words in memory. -/

theorem readWord_of_bytes {m : Memory} {a w : Word} (h : ∀ j, j < 4 → m.read (a + BitVec.ofNat 32 j) = w.extractLsb' (8 * j) 8) :
    m.readWord a = w := by
  have h0 : m.read a = w.extractLsb' 0 8 := by simpa using h 0 (by decide)
  have h1 : m.read (a + 1) = w.extractLsb' 8 8 := h 1 (by decide)
  have h2 : m.read (a + 2) = w.extractLsb' 16 8 := h 2 (by decide)
  have h3 : m.read (a + 3) = w.extractLsb' 24 8 := h 3 (by decide)
  have hw := w.isLt
  refine BitVec.eq_of_toNat_eq ?_
  rw [readWord_toNat, h0, h1, h2, h3]
  simp only [BitVec.extractLsb'_toNat, Nat.shiftRight_eq_div_pow]
  omega

theorem msb_of_small {n : Word} (hn : n.toNat < 2 ^ 31) : n.msb = false := by
  rw [BitVec.msb_eq_decide, decide_eq_false_iff_not]
  omega

theorem headerIsHuffman_of_size {n : Word} (hn : n.toNat < 2 ^ 31) (hpos : 0 < n.toNat) : headerIsHuffman n = true := by
  have hne : n ≠ 0 := fun h => by rw [h] at hpos; exact Nat.lt_irrefl 0 hpos
  rw [headerIsHuffman, msb_of_small hn, bne_iff_ne.mpr hne]
  rfl

theorem headerMagnitude_of_size {n : Word} (hn : n.toNat < 2 ^ 31) : headerMagnitude n = n := by
  rw [headerMagnitude, msb_of_small hn]
  rfl

theorem neg_size_toInt {n : Word} (hn : n.toNat < 2 ^ 31) : -n = 0 ∨ (-n).msb = true := by
  by_cases h0 : n.toNat = 0
  · left
    rw [show n = 0 from BitVec.eq_of_toNat_eq h0]
    rfl
  · right
    rw [BitVec.msb_eq_decide, decide_eq_true_iff, BitVec.toNat_neg]
    omega

theorem headerIsHuffman_neg {n : Word} (hn : n.toNat < 2 ^ 31) : headerIsHuffman (-n) = false := by
  rcases neg_size_toInt hn with h | h
  · rw [h]
    rfl
  · simp [headerIsHuffman, h]

theorem headerMagnitude_neg {n : Word} (hn : n.toNat < 2 ^ 31) : headerMagnitude (-n) = n := by
  rcases neg_size_toInt hn with h | h
  · rw [h, show n = 0 by simpa using h]
    rfl
  · rw [headerMagnitude, h, if_pos rfl, BitVec.neg_neg]

/-! The first two turns: the start checks, then the header (R804, R700). -/

theorem Reaches.first {s t v : State} (h : engineStep { s with made := 0 } = .next t) (ht : Reaches t v) : Reaches s v := by
  obtain ⟨k, hk⟩ := ht
  exact ⟨k + 1, (engineTurns_succ ((step_engine_entry s).trans h) k).trans hk⟩

/-- The decoder at its header. -/
def headerState (u : State) : State :=
  { u with made := 0, dec := { u.dec with out := 0 }, cache := Cache.empty, phase := .header }

theorem engineStep_decompress {u : State} (hp : u.phase = .start) (hop : u.lat.op = 2) (hcheck : u.lat.checkDecompress = none) :
    engineStep { u with made := 0 } = .next (headerState u) := by
  have hi : decodeCommand u.lat.commandWord = .decompress := by
    rw [decodeCommand, commandWord_op, hop]
    rfl
  rw [engineStep_of_start (s := { u with made := 0 }) hp]
  simp only [hi]
  rw [exec_decompress (s := { u with made := 0 }) hp]
  rcases decompressWork_cases { u with made := 0 } with ⟨e, he, _⟩ | ⟨_, hw⟩
  · cases hcheck.symm.trans he
  · rw [hw]
    rfl

theorem reaches_header {u : State} (hp : u.phase = .start) (hop : u.lat.op = 2) (hcheck : u.lat.checkDecompress = none) {h : Word}
    (hword : u.mem.readWord u.lat.src = h) {z : State}
    (hz : Reaches (if headerIsHuffman h then (headerState u).huffmanHeader h else (headerState u).storedHeader h) z) :
    Reaches u z := by
  refine .first (engineStep_decompress hp hop hcheck) (.step rfl ?_ hz)
  rw [engineStep_of_run (fetch_of_header (s := headerState u) rfl), show (headerState u).mem.readWord (headerState u).lat.src = h
    from hword]
  exact exec_header rfl h

/-! The result. -/

/-- Where a DECOMPRESS of `n` bytes from `src` on completes. -/
structure Restores (u : State) (n : Word) (form : Bool) (byte : Nat → Byte) (v : State) : Prop where
  reached : Reaches u v
  idle : v.phase = .idle
  regs : v.regs = (u.doneWith n form false).regs
  bytes : ∀ j, j < n.toNat → v.mem.read (u.lat.dst + BitVec.ofNat 32 j) = byte j

section Results

variable {s u : State} (hp : u.phase = .start) (hclean : u.tainted = false) (hop : u.lat.op = 2)
  (hcheck : u.lat.checkDecompress = none) (hcap : s.lat.n.toNat ≤ u.lat.cap.toNat) (hn : s.lat.n.toNat < 2 ^ 31)
include hp hclean hop hcheck hcap hn

/-- The stored form (R701). -/
theorem restores_stored {mem : Memory} (hsize : u.lat.n.toNat = 4 + s.lat.n.toNat)
    (hhead : ∀ j, j < 4 → mem.read (s.lat.dst + BitVec.ofNat 32 j) = (-s.lat.n).extractLsb' (8 * j) 8)
    (hbytes : ∀ j, j < s.lat.n.toNat →
      mem.read (s.lat.dst + BitVec.ofNat 32 (4 + j)) = s.mem.read (s.lat.src + BitVec.ofNat 32 j))
    (hsame : ∀ j, j < 4 + s.lat.n.toNat → u.mem.read (u.lat.src + BitVec.ofNat 32 j) = mem.read (s.lat.dst + BitVec.ofNat 32 j)) :
    ∃ v, Restores u s.lat.n false (fun j => s.mem.read (s.lat.src + BitVec.ofNat 32 j)) v := by
  obtain ⟨hbad, _⟩ := checkDecompress_none hcheck
  have hword : u.mem.readWord u.lat.src = -s.lat.n :=
    readWord_of_bytes fun j hj => (hsame j (by omega)).trans (hhead j hj)
  have hreach := fun z => reaches_header hp hop hcheck hword (z := z)
  simp only [headerIsHuffman_neg hn, Bool.false_eq_true, if_false] at hreach
  have hmag := headerMagnitude_neg hn
  rcases storedHeader_cases (headerState u) (-s.lat.n) with ⟨hbig, _⟩ | ⟨_, hshort, _⟩ | ⟨_, _, hw⟩
  · rw [hmag] at hbig
    exact absurd hcap (Nat.not_le.mpr hbig)
  · rw [hmag] at hshort
    have hlat : (headerState u).lat.n.toNat = 4 + s.lat.n.toNat := hsize
    omega
  · rw [hw, complete_of_untainted, hmag] at hreach
    · refine ⟨_, hreach _ (.refl _), rfl, rfl, fun j hj => ?_⟩
      refine (read_copy_payload hbad (by omega) hcap j hj).trans ?_
      exact (hsame _ (by omega)).trans (hbytes j hj)
    · exact hclean

/-- The Huffman form (R701, R711): the payload's blocks stand for the source. -/
theorem restores_huffman (hinv : u.DecodeInv) {mem : Memory} {words : Nat} {b : Place} (hpos : 0 < s.lat.n.toNat)
    (hsize : u.lat.n.toNat = 4 + 4 * words)
    (hhead : u.mem.readWord u.lat.src = s.lat.n)
    (hsame : ∀ j, j < 4 * words → u.mem.read (u.lat.src + 4 + BitVec.ofNat 32 j) = mem.read (s.lat.dst + 4 + BitVec.ofNat 32 j))
    (hblocks : Blocks s.source (payload mem (s.lat.dst + 4) words) firstPlace b) (hend : b.out = s.lat.n.toNat) :
    ∃ v, Restores u s.lat.n true (fun j => s.mem.read (s.lat.src + BitVec.ofNat 32 j)) v := by
  obtain ⟨hbad, h4⟩ := checkDecompress_none hcheck
  obtain ⟨_, ⟨hlit, hdist⟩, _⟩ := hinv
  have hreach := fun z => reaches_header hp hop hcheck hhead (z := z)
  simp only [headerIsHuffman_of_size hn hpos, if_true] at hreach
  have hmag := headerMagnitude_of_size hn
  rcases huffmanHeader_cases (headerState u) s.lat.n with ⟨hbig, _⟩ | ⟨_, hw⟩
  · rw [hmag] at hbig
    exact absurd hcap (Nat.not_le.mpr hbig)
  · rw [hw, hmag] at hreach
    have hlen : (u.lat.n - 4).toNat = 4 * words := by
      have hsub : (u.lat.n - 4).toNat = u.lat.n.toNat - 4 := BitVec.toNat_sub_of_le h4
      omega
    have hstart : Decoding u s.source (payload mem (s.lat.dst + 4) words) firstPlace
        { headerState u with dec := { (headerState u).dec with m := s.lat.n }, rd := u.lat.reader } := {
      made := rfl
      clean := hclean
      lat := rfl
      regs := rfl
      m := rfl
      out := rfl
      pos := rfl
      cache := rfl
      ready := ⟨h4, rfl, rfl, initial_reader_coherent _ _⟩
      stream := by
        refine ⟨?_, fun i hi => ?_⟩
        · simp only [payload, readable, Reader.bits, Latched.reader, hlen]
          omega
        · simp only [payload] at hi
          simp only [payload, readable, Latched.reader, streamBit]
          exact congrArg (fun x : Byte => x.getLsbD (i % 8)) (hsame _ (by omega))
      bytes := fun j hj => absurd hj (Nat.not_lt_zero j)
      lensLit := hlit
      lensDist := hdist }
    obtain ⟨w, hw, hrun⟩ := hstart.blocks hbad hcap hblocks
    have hloop : w.blockLoop = w.doneWith w.dec.m true false := by
      rw [← complete_of_untainted hw.clean]
      exact if_neg (by rw [hw.out, hw.m, hend]; exact Nat.lt_irrefl _)
    have hm : w.dec.m = s.lat.n := BitVec.eq_of_toNat_eq hw.m
    rw [hloop, hm] at hrun
    refine ⟨_, hreach _ (hrun _ (.refl _)), rfl, ?_, fun j hj => hw.bytes j (hend.symm ▸ hj)⟩
    rw [State.doneWith, State.doneWith, hw.regs]

end Results

/-! What COMPRESS gives. -/

/-- The result that COMPRESS leaves in `t`, for the source of `s`, decompresses to that source. -/
def Decompresses (s t : State) : Prop :=
  ∀ u : State, u.phase = .start → u.tainted = false → u.DecodeInv → u.lat.op = 2 → u.lat.checkDecompress = none →
    u.lat.n = t.regs.resultLen → s.lat.n.toNat ≤ u.lat.cap.toNat →
    (∀ j, j < t.regs.resultLen.toNat → u.mem.read (u.lat.src + BitVec.ofNat 32 j) = t.mem.read (s.lat.dst + BitVec.ofNat 32 j)) →
    ∃ v, Restores u s.lat.n t.regs.form (fun j => s.mem.read (s.lat.src + BitVec.ofNat 32 j)) v

theorem decompresses_stored {s t : State} (hn : s.lat.n.toNat < 2 ^ 31) (ht : StoredAt s t)
    (hlen : t.regs.resultLen = s.lat.n + 4) (hform : t.regs.form = false) : Decompresses s t := by
  intro u hp hclean _ hop hcheck hu hcap hsame
  obtain ⟨hhead, hbytes, _⟩ := ht
  rw [hlen] at hu hsame
  rw [hform]
  exact restores_stored hp hclean hop hcheck hcap hn (by rw [hu, storedLength_toNat hn]) hhead hbytes
    fun j hj => hsame j (by rw [storedLength_toNat hn]; exact hj)

theorem decompresses_huffman {s t : State} {level : Level} {w : Work} (hs : s.lat.checkCompress = none) (h4 : 4 ≤ s.lat.n.toNat)
    (hw : s.attempt level .write = .ok w) (hmem : t.mem = w.mem.writeWord s.lat.dst s.lat.n)
    (hlen : t.regs.resultLen = huffmanLength w.wr) (hform : t.regs.form = true) : Decompresses s t := by
  intro u hp hclean hinv hop hcheck hu hcap hsame
  have hn := small_of_checkCompress hs
  have hemits := attempt_emits s level .write
  rw [hw] at hemits
  have hbase : w.wr.base = s.lat.dst + 4 := hemits.base
  have hwords : 4 * w.wr.words.toNat ≤ s.lat.n.toNat := hemits.bound (Nat.zero_le _)
  have hsize : (huffmanLength w.wr).toNat = 4 + 4 * w.wr.words.toNat := by
    rw [huffmanLength_eq, BitVec.toNat_ofNat]
    omega
  obtain ⟨b, hend, hblocks⟩ := attempt_blocks hs hw
  rw [hbase] at hblocks
  rw [hlen] at hu hsame
  rw [hsize] at hsame
  rw [hform]
  refine restores_huffman hp hclean hop hcheck hcap hn hinv (by omega) (by rw [hu, hsize]) (readWord_of_bytes fun j hj => ?_)
    (fun j hj => ?_) hblocks hend
  · rw [hsame j (by omega), hmem, read_writeWord_same _ _ _ _ hj]
  · rw [add_four_add_ofNat, add_four_add_ofNat, hsame _ (by omega), hmem]
    exact read_writeWord_other _ _ _ _ fun i hi => dst_byte_ne (by omega) (by omega) (by omega)

theorem compress_decompresses {s : State} (hclean : s.tainted = false) (hs : s.lat.checkCompress = none) (level : Level) :
    Decompresses s (s.compressWork level) := by
  have hn := small_of_checkCompress hs
  by_cases h4 : s.lat.n.toNat < 4
  · rw [compressWork_of_short hclean hs h4]
    exact decompresses_stored hn (storedForm_storedAt hs rfl (sameExcept_refl _ _ _)) rfl rfl
  · cases hw : s.attempt level .write with
    | ok w =>
      rw [compressWork_of_ok hclean hs (not_lt.mp h4) hw]
      exact decompresses_huffman hs (not_lt.mp h4) hw rfl rfl rfl
    | noSpace w =>
      rw [compressWork_of_noSpace hclean hs (not_lt.mp h4) hw]
      exact decompresses_stored hn (fallback_storedAt hs hw) rfl rfl

/-- Settles O26: the stored form is copied back, and the blocks that the scan wrote are decoded one by one. -/
theorem compressedBufferDecompresses : Obligations.CompressedBufferDecompresses := by
  unfold Obligations.CompressedBufferDecompresses
  intro s level hp hclean hs
  refine ⟨_, exec_compress hp level, fun u hup huclean hinv hop hcheck hu hcap hsame => ?_⟩
  obtain ⟨v, ⟨k, hk⟩, hidle, hregs, hbytes⟩ := compress_decompresses hclean hs level u hup huclean hinv hop hcheck hu hcap hsame
  exact ⟨k, v, hk, hidle, hregs, hbytes⟩

end Sys2Proof.Proofs
